-- ==== Sys2Proof/Word.lean ====
section
/-! DEFINITION. The widths of the machine: bytes, words, register numbers, 12-bit addresses (spec/00_scope.md R5, R6). -/

namespace Sys2Proof

/-- An 8-bit value: a general register, a timer, a byte of memory, the immediate `kk` (R6, R21, R91). -/
abbrev Byte := BitVec 8

/-- A 16-bit value: `I`, `PC`, a stack entry, an opcode word (R6, R23, R24, R27, R90). -/
abbrev Word := BitVec 16

/-- A register number 0 to 15: the fields `x` and `y`, and `WAIT_X` (R21, R33, R91). -/
abbrev Reg := BitVec 4

/-- The 12-bit address or immediate `nnn` (R91). -/
abbrev Addr := BitVec 12

/-- `zext_16` of a byte (R6). -/
abbrev Byte.zext (b : Byte) : Word := b.setWidth 16

/-- `zext_16` of a 12-bit address (R6). -/
abbrev Addr.zext (a : Addr) : Word := a.setWidth 16

/-- `w[11:0]`, the part of `PC` or `I` that addresses memory (R23, R24). -/
abbrev Word.low12 (w : Word) : Addr := w.extractLsb' 0 12

end Sys2Proof
end

