-- ==== Sys2Proof/Config.lean ====
section
/-! DEFINITION. The parameters of the block (spec/00_scope.md R4) and the one free value, the random byte of a Step. -/

namespace Sys2Proof

/-- The four open parameters of R4 (decisions D2, D3, D4, D10). The state carries one `Config`, which no operation changes, so
that a claim over all states holds for every choice of the parameters (DESIGN CHOICE,
safe, log 3). -/
structure Config where
  /-- `STACK_DEPTH`, the number of call-stack entries; 12 to 16. -/
  stackDepth : Nat
  /-- `FONT_BASE`, the address of glyph 0. -/
  fontBase : Nat
  /-- `FONT_DATA`, the 80 glyph bytes. -/
  fontData : List Byte
  /-- `SHIFT_SRC_VY`: the shifts take `V[y]` where true, `V[x]` where false. -/
  shiftSrcVy : Bool
  deriving DecidableEq, Repr

namespace Config

/-- The bytes the font occupies: 16 glyphs of 5 bytes (R4, R62). -/
def fontSize : Nat := 80

/-- The ranges R4 gives the parameters: `12 <= STACK_DEPTH <= 16`, `FONT_BASE + 80 <= 0x200`, 80 font bytes; and the format of the
font bytes: the glyph in the high nibble, the low nibble zero (R62). -/
def Legal (c : Config) : Prop :=
  12 ≤ c.stackDepth ∧ c.stackDepth ≤ 16 ∧ c.fontBase + fontSize ≤ 0x200 ∧ c.fontData.length = fontSize ∧
    ∀ b ∈ c.fontData, b.extractLsb' 0 4 = 0

/-- FREE VALUE (DESIGN CHOICE, safe, log 2). The byte `rnd` the surroundings hand to the `k`-th Step where the state does not name it (R120, R173,
decision D17): any value, under no law. It has no body, so nothing can be proved of its value. -/
opaque freeRnd : Nat → Byte

end Config

end Sys2Proof
end

