-- ==== Sys2Proof/Syntax.lean ====
section
/-! DEFINITION. The instructions: one constructor for each of the 34 rows of spec/opcode_table.json (spec/30_encoding.md R95). -/

namespace Sys2Proof

/-- A decoded instruction with the fields its format names (R92). `x`, `y` are register numbers, `kk` and `nnn` immediates;
`n` is a count of sprite rows, so it is a number, which `Instr.wf` bounds by 15 (R93). -/
inductive Instr where
  /-- `00E0` CLS (R200) -/
  | cls
  /-- `00EE` RET (R140) -/
  | ret
  /-- `1nnn` JP nnn (R141) -/
  | jp (nnn : Addr)
  /-- `2nnn` CALL nnn (R142) -/
  | call (nnn : Addr)
  /-- `3xkk` SE Vx, kk (R143) -/
  | seImm (x : Reg) (kk : Byte)
  /-- `4xkk` SNE Vx, kk (R144) -/
  | sneImm (x : Reg) (kk : Byte)
  /-- `5xy0` SE Vx, Vy (R145) -/
  | seReg (x y : Reg)
  /-- `6xkk` LD Vx, kk (R161) -/
  | ldImm (x : Reg) (kk : Byte)
  /-- `7xkk` ADD Vx, kk (R162) -/
  | addImm (x : Reg) (kk : Byte)
  /-- `8xy0` LD Vx, Vy (R163) -/
  | ldReg (x y : Reg)
  /-- `8xy1` OR Vx, Vy (R164) -/
  | orReg (x y : Reg)
  /-- `8xy2` AND Vx, Vy (R165) -/
  | andReg (x y : Reg)
  /-- `8xy3` XOR Vx, Vy (R166) -/
  | xorReg (x y : Reg)
  /-- `8xy4` ADD Vx, Vy (R167) -/
  | addReg (x y : Reg)
  /-- `8xy5` SUB Vx, Vy (R168) -/
  | subReg (x y : Reg)
  /-- `8xy6` SHR Vx, Vy (R169); `y` is kept even where the shift ignores it (R97) -/
  | shr (x y : Reg)
  /-- `8xy7` SUBN Vx, Vy (R170) -/
  | subn (x y : Reg)
  /-- `8xyE` SHL Vx, Vy (R171); `y` is kept even where the shift ignores it (R97) -/
  | shl (x y : Reg)
  /-- `9xy0` SNE Vx, Vy (R146) -/
  | sneReg (x y : Reg)
  /-- `Annn` LD I, nnn (R180) -/
  | ldI (nnn : Addr)
  /-- `Bnnn` JP V0, nnn (R148) -/
  | jpV0 (nnn : Addr)
  /-- `Cxkk` RND Vx, kk (R173) -/
  | rnd (x : Reg) (kk : Byte)
  /-- `Dxyn` DRW Vx, Vy, n (R201) -/
  | drw (x y : Reg) (n : Nat)
  /-- `Ex9E` SKP Vx (R211) -/
  | skp (x : Reg)
  /-- `ExA1` SKNP Vx (R212) -/
  | sknp (x : Reg)
  /-- `Fx07` LD Vx, DT (R214) -/
  | ldVxDt (x : Reg)
  /-- `Fx0A` LD Vx, K (R213) -/
  | ldVxK (x : Reg)
  /-- `Fx15` LD DT, Vx (R215) -/
  | ldDtVx (x : Reg)
  /-- `Fx18` LD ST, Vx (R216) -/
  | ldStVx (x : Reg)
  /-- `Fx1E` ADD I, Vx (R181) -/
  | addI (x : Reg)
  /-- `Fx29` LD F, Vx (R182) -/
  | ldF (x : Reg)
  /-- `Fx33` LD B, Vx (R183) -/
  | ldB (x : Reg)
  /-- `Fx55` LD [I], Vx (R185) -/
  | stRegs (x : Reg)
  /-- `Fx65` LD Vx, [I] (R186) -/
  | ldRegs (x : Reg)
  deriving DecidableEq, Repr

end Sys2Proof
end

