-- ==== Sys2Proof/Decode.lean ====
section
/-! DEFINITION. The decoder and the encoder, both written from the encoding tables of spec/30_encoding.md (R90 to R98). -/

namespace Sys2Proof

/-! ### The fields of an opcode word (R91) -/

/-- `op = opcode[15:12]`, the nibble that dispatch is keyed on (R91, R94). -/
def fieldOp (w : Word) : BitVec 4 := w.extractLsb' 12 4

/-- `x = opcode[11:8]` (R91). -/
def fieldX (w : Word) : Reg := w.extractLsb' 8 4

/-- `y = opcode[7:4]` (R91). -/
def fieldY (w : Word) : Reg := w.extractLsb' 4 4

/-- `n = opcode[3:0]` (R91). -/
def fieldN (w : Word) : BitVec 4 := w.extractLsb' 0 4

/-- `kk = opcode[7:0]` (R91). -/
def fieldKk (w : Word) : Byte := w.extractLsb' 0 8

/-- `nnn = opcode[11:0]` (R91). -/
def fieldNnn (w : Word) : Addr := w.extractLsb' 0 12

/-- The word of four nibbles, the most significant first (the opcode patterns of R5 and R91). -/
def pack (op x y n : BitVec 4) : Word := op ++ x ++ y ++ n

/-- The word of the two bytes of an instruction, the first byte the high one (R63, R90). -/
def wordOfBytes (hi lo : Byte) : Word := hi ++ lo

/-- The byte an instruction word stores at its lower address (R63). -/
def hiByte (w : Word) : Byte := w.extractLsb' 8 8

/-- The byte an instruction word stores at its higher address (R63). -/
def loByte (w : Word) : Byte := w.extractLsb' 0 8

/-! ### The opcode map (R95) -/

/-- One row of the opcode map: a word `w` selects it where `w & mask = value` (R95). The patterns are the spec's general knowledge
(PRESUMED, unsafe, log 4). -/
structure OpcodeRow where
  mask : Word
  value : Word
  deriving DecidableEq, Repr

/-- The word selects the row (R95). -/
def OpcodeRow.selects (r : OpcodeRow) (w : Word) : Bool := (w &&& r.mask) == r.value

/-- The row of the opcode map that an instruction belongs to, as the table of R95 and opcode_table.json give mask and match. -/
def Instr.row : Instr → OpcodeRow
  | .cls => ⟨0xFFFF#16, 0x00E0#16⟩
  | .ret => ⟨0xFFFF#16, 0x00EE#16⟩
  | .jp _ => ⟨0xF000#16, 0x1000#16⟩
  | .call _ => ⟨0xF000#16, 0x2000#16⟩
  | .seImm _ _ => ⟨0xF000#16, 0x3000#16⟩
  | .sneImm _ _ => ⟨0xF000#16, 0x4000#16⟩
  | .seReg _ _ => ⟨0xF00F#16, 0x5000#16⟩
  | .ldImm _ _ => ⟨0xF000#16, 0x6000#16⟩
  | .addImm _ _ => ⟨0xF000#16, 0x7000#16⟩
  | .ldReg _ _ => ⟨0xF00F#16, 0x8000#16⟩
  | .orReg _ _ => ⟨0xF00F#16, 0x8001#16⟩
  | .andReg _ _ => ⟨0xF00F#16, 0x8002#16⟩
  | .xorReg _ _ => ⟨0xF00F#16, 0x8003#16⟩
  | .addReg _ _ => ⟨0xF00F#16, 0x8004#16⟩
  | .subReg _ _ => ⟨0xF00F#16, 0x8005#16⟩
  | .shr _ _ => ⟨0xF00F#16, 0x8006#16⟩
  | .subn _ _ => ⟨0xF00F#16, 0x8007#16⟩
  | .shl _ _ => ⟨0xF00F#16, 0x800E#16⟩
  | .sneReg _ _ => ⟨0xF00F#16, 0x9000#16⟩
  | .ldI _ => ⟨0xF000#16, 0xA000#16⟩
  | .jpV0 _ => ⟨0xF000#16, 0xB000#16⟩
  | .rnd _ _ => ⟨0xF000#16, 0xC000#16⟩
  | .drw _ _ _ => ⟨0xF000#16, 0xD000#16⟩
  | .skp _ => ⟨0xF0FF#16, 0xE09E#16⟩
  | .sknp _ => ⟨0xF0FF#16, 0xE0A1#16⟩
  | .ldVxDt _ => ⟨0xF0FF#16, 0xF007#16⟩
  | .ldVxK _ => ⟨0xF0FF#16, 0xF00A#16⟩
  | .ldDtVx _ => ⟨0xF0FF#16, 0xF015#16⟩
  | .ldStVx _ => ⟨0xF0FF#16, 0xF018#16⟩
  | .addI _ => ⟨0xF0FF#16, 0xF01E#16⟩
  | .ldF _ => ⟨0xF0FF#16, 0xF029#16⟩
  | .ldB _ => ⟨0xF0FF#16, 0xF033#16⟩
  | .stRegs _ => ⟨0xF0FF#16, 0xF055#16⟩
  | .ldRegs _ => ⟨0xF0FF#16, 0xF065#16⟩

/-- One instruction of each row, in the order of R95; only the rows are used. -/
def Instr.samples : List Instr :=
  [.cls, .ret, .jp 0, .call 0, .seImm 0 0, .sneImm 0 0, .seReg 0 0, .ldImm 0 0, .addImm 0 0, .ldReg 0 0, .orReg 0 0,
   .andReg 0 0] ++
  [.xorReg 0 0, .addReg 0 0, .subReg 0 0, .shr 0 0, .subn 0 0, .shl 0 0, .sneReg 0 0, .ldI 0, .jpV0 0, .rnd 0 0,
   .drw 0 0 0] ++
  [.skp 0, .sknp 0, .ldVxDt 0, .ldVxK 0, .ldDtVx 0, .ldStVx 0, .addI 0, .ldF 0, .ldB 0, .stRegs 0, .ldRegs 0]

/-- The opcode map: the 34 rows of R95. -/
def opcodeMap : List OpcodeRow := Instr.samples.map Instr.row

/-! ### Decoding (R94, R96, R98) -/

/-- Why bytes are no instruction. -/
inductive DecodeError where
  /-- The word matches no row of the opcode map (R96); the Step reports it as a result and goes on. -/
  | unknownOpcode (opcode : Word)
  /-- Fewer than two bytes were given (R90). -/
  | truncated
  deriving DecidableEq, Repr

/-- `op = 0` dispatches on the whole word (R94, R95). -/
def decodeOp0 (w : Word) : Except DecodeError Instr :=
  if w = 0x00E0#16 then .ok .cls
  else if w = 0x00EE#16 then .ok .ret
  else .error (.unknownOpcode w)

/-- `op = 8` dispatches second on `n` (R94, R95). -/
def decodeOp8 (w : Word) (x y : Reg) (n : Nat) : Except DecodeError Instr :=
  match n with
  | 0x0 => .ok (.ldReg x y)
  | 0x1 => .ok (.orReg x y)
  | 0x2 => .ok (.andReg x y)
  | 0x3 => .ok (.xorReg x y)
  | 0x4 => .ok (.addReg x y)
  | 0x5 => .ok (.subReg x y)
  | 0x6 => .ok (.shr x y)
  | 0x7 => .ok (.subn x y)
  | 0xE => .ok (.shl x y)
  | _ => .error (.unknownOpcode w)

/-- `op = 0xE` dispatches second on `kk` (R94, R95). -/
def decodeOpE (w : Word) (x : Reg) (kk : Byte) : Except DecodeError Instr :=
  if kk = 0x9E#8 then .ok (.skp x)
  else if kk = 0xA1#8 then .ok (.sknp x)
  else .error (.unknownOpcode w)

/-- `op = 0xF` dispatches second on `kk` (R94, R95). -/
def decodeOpF (w : Word) (x : Reg) (kk : Byte) : Except DecodeError Instr :=
  if kk = 0x07#8 then .ok (.ldVxDt x)
  else if kk = 0x0A#8 then .ok (.ldVxK x)
  else if kk = 0x15#8 then .ok (.ldDtVx x)
  else if kk = 0x18#8 then .ok (.ldStVx x)
  else if kk = 0x1E#8 then .ok (.addI x)
  else if kk = 0x29#8 then .ok (.ldF x)
  else if kk = 0x33#8 then .ok (.ldB x)
  else if kk = 0x55#8 then .ok (.stRegs x)
  else if kk = 0x65#8 then .ok (.ldRegs x)
  else .error (.unknownOpcode w)

/-- The decoder: dispatch on `op`, then where R94 says so on the whole word, on `n` or on `kk`. Total (R98); a word that
matches no row is rejected by name (R96). -/
def decode (w : Word) : Except DecodeError Instr :=
  match (fieldOp w).toNat with
  | 0x0 => decodeOp0 w
  | 0x1 => .ok (.jp (fieldNnn w))
  | 0x2 => .ok (.call (fieldNnn w))
  | 0x3 => .ok (.seImm (fieldX w) (fieldKk w))
  | 0x4 => .ok (.sneImm (fieldX w) (fieldKk w))
  | 0x5 => if fieldN w = 0 then .ok (.seReg (fieldX w) (fieldY w)) else .error (.unknownOpcode w)
  | 0x6 => .ok (.ldImm (fieldX w) (fieldKk w))
  | 0x7 => .ok (.addImm (fieldX w) (fieldKk w))
  | 0x8 => decodeOp8 w (fieldX w) (fieldY w) (fieldN w).toNat
  | 0x9 => if fieldN w = 0 then .ok (.sneReg (fieldX w) (fieldY w)) else .error (.unknownOpcode w)
  | 0xA => .ok (.ldI (fieldNnn w))
  | 0xB => .ok (.jpV0 (fieldNnn w))
  | 0xC => .ok (.rnd (fieldX w) (fieldKk w))
  | 0xD => .ok (.drw (fieldX w) (fieldY w) (fieldN w).toNat)
  | 0xE => decodeOpE w (fieldX w) (fieldKk w)
  | _ => decodeOpF w (fieldX w) (fieldKk w)

/-- The decoder on the bytes at an address, lowest address first: the instruction and the bytes after it (R63, R90). -/
def decodeBytes : List Byte → Except DecodeError (Instr × List Byte)
  | hi :: lo :: rest =>
    match decode (wordOfBytes hi lo) with
    | .ok i => .ok (i, rest)
    | .error e => .error e
  | _ => .error .truncated

/-! ### Encoding (R91, R95) -/

/-- The word of an instruction with the fields `x` and `kk` (format XKK, and format X with a fixed `kk`). -/
def packXkk (op x : BitVec 4) (kk : Byte) : Word := op ++ x ++ kk

/-- The word of an instruction with the field `nnn` (format NNN). -/
def packNnn (op : BitVec 4) (nnn : Addr) : Word := op ++ nnn

/-- The opcode word of an instruction, by the patterns of R95. -/
def encode : Instr → Word
  | .cls => 0x00E0#16
  | .ret => 0x00EE#16
  | .jp nnn => packNnn 0x1 nnn
  | .call nnn => packNnn 0x2 nnn
  | .seImm x kk => packXkk 0x3 x kk
  | .sneImm x kk => packXkk 0x4 x kk
  | .seReg x y => pack 0x5 x y 0x0
  | .ldImm x kk => packXkk 0x6 x kk
  | .addImm x kk => packXkk 0x7 x kk
  | .ldReg x y => pack 0x8 x y 0x0
  | .orReg x y => pack 0x8 x y 0x1
  | .andReg x y => pack 0x8 x y 0x2
  | .xorReg x y => pack 0x8 x y 0x3
  | .addReg x y => pack 0x8 x y 0x4
  | .subReg x y => pack 0x8 x y 0x5
  | .shr x y => pack 0x8 x y 0x6
  | .subn x y => pack 0x8 x y 0x7
  | .shl x y => pack 0x8 x y 0xE
  | .sneReg x y => pack 0x9 x y 0x0
  | .ldI nnn => packNnn 0xA nnn
  | .jpV0 nnn => packNnn 0xB nnn
  | .rnd x kk => packXkk 0xC x kk
  | .drw x y n => pack 0xD x y (BitVec.ofNat 4 n)
  | .skp x => packXkk 0xE x 0x9E
  | .sknp x => packXkk 0xE x 0xA1
  | .ldVxDt x => packXkk 0xF x 0x07
  | .ldVxK x => packXkk 0xF x 0x0A
  | .ldDtVx x => packXkk 0xF x 0x15
  | .ldStVx x => packXkk 0xF x 0x18
  | .addI x => packXkk 0xF x 0x1E
  | .ldF x => packXkk 0xF x 0x29
  | .ldB x => packXkk 0xF x 0x33
  | .stRegs x => packXkk 0xF x 0x55
  | .ldRegs x => packXkk 0xF x 0x65

/-- The two bytes of an instruction as memory holds them, lowest address first (R63, R90). -/
def encodeBytes (i : Instr) : List Byte := [hiByte (encode i), loByte (encode i)]

/-! ### The host's numbering of a table word -/

/-- The opcode word whose bits are the low `nbits` bits of `w` (bit 0 the least significant of the word, R5); the bits above are
zero, and an instruction has 16 of them (R90). -/
def tableWord (nbits w : Nat) : Word := BitVec.ofNat 16 (w % 2 ^ nbits)

/-- The instruction the decoder reads from a table word laid out in memory as R63 says. -/
def decodeTableWord (nbits w : Nat) : Option Instr :=
  match decodeBytes [hiByte (tableWord nbits w), loByte (tableWord nbits w)] with
  | .ok (i, _) => some i
  | .error _ => none

end Sys2Proof
end

