-- ==== Sys2Proof/Machine/Defaults.lean ====
section
/-! DEFINITION. The default values of the parameters (spec/00_scope.md R4, spec/20_memory.md R62). -/

namespace Sys2Proof

/-- The default `FONT_DATA`: the table of R62, glyph `d` in bytes `5*d` to `5*d+4`, top row first (decision D4, general
knowledge of the spec; log 3). -/
def fontTable : List Byte :=
  [0xF0, 0x90, 0x90, 0x90, 0xF0] ++ [0x20, 0x60, 0x20, 0x20, 0x70] ++
  [0xF0, 0x10, 0xF0, 0x80, 0xF0] ++ [0xF0, 0x10, 0xF0, 0x10, 0xF0] ++
  [0x90, 0x90, 0xF0, 0x10, 0x10] ++ [0xF0, 0x80, 0xF0, 0x10, 0xF0] ++
  [0xF0, 0x80, 0xF0, 0x90, 0xF0] ++ [0xF0, 0x10, 0x20, 0x40, 0x40] ++
  [0xF0, 0x90, 0xF0, 0x90, 0xF0] ++ [0xF0, 0x90, 0xF0, 0x10, 0xF0] ++
  [0xF0, 0x90, 0xF0, 0x90, 0x90] ++ [0xE0, 0x90, 0xE0, 0x90, 0xE0] ++
  [0xF0, 0x80, 0x80, 0x80, 0xF0] ++ [0xE0, 0x90, 0x90, 0x90, 0xE0] ++
  [0xF0, 0x80, 0xF0, 0x80, 0xF0] ++ [0xF0, 0x80, 0xF0, 0x80, 0x80]

/-- The defaults of R4: `STACK_DEPTH` 16, `FONT_BASE` 0x000, `FONT_DATA` the table of R62, `SHIFT_SRC_VY` false. -/
def Config.default : Config :=
  { stackDepth := 16, fontBase := 0x000, fontData := fontTable, shiftSrcVy := false }

end Sys2Proof
end

