-- ==== Sys2Proof/Machine/State.lean ====
section
/-! DEFINITION. The state of the block (spec/10_state.md), its result values (spec/60_exceptions.md R230), and the state after
Reset (R36, R260). -/

namespace Sys2Proof.Machine

/-- The value a Step or a LoadProgram returns: a code and its info (R124, R230). The block has no trap: an error is a result, and
the machine goes on from the state the rules give (R242, R243). -/
inductive Result where
  /-- code 0 -/
  | ok
  /-- code 1, info the opcode word (R231) -/
  | unknownOpcode (opcode : Word)
  /-- code 2 (R232) -/
  | stackOverflow
  /-- code 3 (R233) -/
  | stackUnderflow
  /-- code 4, info the address past the end (R234) -/
  | fetchOob (addr : Nat)
  /-- code 5, info the first address past the end (R235) -/
  | dataOob (addr : Nat)
  /-- code 6, of LoadProgram only (R236) -/
  | programTooLarge
  deriving DecidableEq, Repr

/-- The codes of the table of R230. -/
def Result.code : Result → Nat
  | .ok => 0
  | .unknownOpcode _ => 1
  | .stackOverflow => 2
  | .stackUnderflow => 3
  | .fetchOob _ => 4
  | .dataOob _ => 5
  | .programTooLarge => 6

/-- Ways the machine stops with a fault: none. After every error the block is ready for a further Step (R126, R243), so an error
is a next state whose `result` names it (DEDUCED, safe, log 1); nothing raises a fault. -/
inductive Fault where
  deriving DecidableEq, Repr

/-- Ways an instruction has no meaning. -/
inductive Refusal where
  /-- Raised by the arm of `exec` of an instruction that has no meaning yet, and by no arm of this model; safe, since it stops. -/
  | notModelled (mnemonic : String)
  deriving DecidableEq, Repr

/-- The display buffer: 32 rows of 64 one-bit pixels; bit `x` of row `y` is `DISP[y*64+x]` (R30). -/
abbrev Screen := Vector (BitVec 64) 32

/-- The complete state of the block (R20), and after it four fields that are the model's own (INVENTORY.md, State). -/
structure State where
  /-- `V[0..15]` (R21); `V[15]` is VF (R22). -/
  v : Vector Byte 16
  /-- `I` (R23). -/
  i : Word
  /-- `PC` (R24): between Steps the address of the next instruction, during the execute phase the post-fetch PC. -/
  pc : Word
  /-- `DT` (R25). -/
  dt : Byte
  /-- `ST` (R26). -/
  st : Byte
  /-- `STACK[0..STACK_DEPTH-1]` (R27). -/
  stack : List Word
  /-- `SP`, the number of occupied entries (R28). -/
  sp : Nat
  /-- `MEM` (R29): the cells that differ from what an unlisted address reads as, addresses rising. -/
  mem : List Host.Cell
  /-- `DISP` (R30). -/
  disp : Screen
  /-- `REDRAW` (R31). -/
  redraw : Bool
  /-- `KEYS[0..15]`, bit `k` is key `k`, 1 = down (R32). -/
  keys : BitVec 16
  /-- `WAIT_KEY`: the control state is WAIT where true, RUN where false (R33, R126). -/
  waitKey : Bool
  /-- `WAIT_X` (R33). -/
  waitX : Reg
  /-- The model's own: the parameters of R4; no operation changes them (DESIGN CHOICE, log 3). -/
  cfg : Config
  /-- The model's own: the input byte `rnd` of the coming Step where the surroundings name it (R120; DESIGN CHOICE,
  log 2). -/
  rnd : Option Byte
  /-- The model's own: how many Steps were made; the free value is applied to it (DESIGN CHOICE, log 2). -/
  draws : Nat
  /-- The model's own: the result that the last Step or LoadProgram returned, an output that no rule reads (R35;
  DESIGN CHOICE, safe, log 1). -/
  result : Result
  deriving DecidableEq, Repr

/-- What a step answers. -/
abbrev StepOut := Host.Outcome State Fault Refusal

/-- The state after Reset of a block with the given parameters (R36, R260). Memory lists no cell: what an unlisted address reads
as is the reset content (`resetByte` in Machine/Ops.lean). `STACK` and `WAIT_X`, which R36 leaves unspecified, are zero
(DESIGN CHOICE, unsafe, log 5). -/
def State.resetWith (cfg : Config) : State :=
  { v := Vector.replicate 16 0, i := 0, pc := 0x0200, dt := 0, st := 0,
    stack := List.replicate cfg.stackDepth 0, sp := 0, mem := [],
    disp := Vector.replicate 32 0, redraw := false, keys := 0, waitKey := false, waitX := 0,
    cfg := cfg, rnd := none, draws := 0, result := .ok }

/-- The machine right after Reset, with the parameters at the defaults of R4. -/
def State.reset : State := State.resetWith Config.default

end Sys2Proof.Machine
end

