-- ==== Sys2Proof/Machine/Ops.lean ====
section
/-! DEFINITION. The shared operations: registers, memory, stack, display buffer, results (spec/00_scope.md R6, spec/10_state.md,
spec/20_memory.md, spec/60_exceptions.md). -/

namespace Sys2Proof.Machine

/-! ### Registers (R21 to R26) -/

/-- `V[x]` (R6, R21). -/
def State.readV (s : State) (x : Reg) : Byte := s.v[x.toNat]

/-- `V[x] <- b` (R6, R21). -/
def State.writeV (s : State) (x : Reg) (b : Byte) : State := { s with v := s.v.set x.toNat b }

/-- `I <- w` (R23). -/
def State.setI (s : State) (w : Word) : State := { s with i := w }

/-- `PC <- w` (R24). -/
def State.setPc (s : State) (w : Word) : State := { s with pc := w }

/-- `DT <- b` (R25). -/
def State.setDt (s : State) (b : Byte) : State := { s with dt := b }

/-- `ST <- b` (R26). -/
def State.setSt (s : State) (b : Byte) : State := { s with st := b }

/-- `SP <- n` (R28). -/
def State.setSp (s : State) (n : Nat) : State := { s with sp := n }

/-- Replaces the stack entries (R27). -/
def State.setStack (s : State) (l : List Word) : State := { s with stack := l }

/-- Replaces the cells of memory. -/
def State.setMem (s : State) (m : List Host.Cell) : State := { s with mem := m }

/-- Replaces the display buffer (R30). -/
def State.setDisp (s : State) (d : Screen) : State := { s with disp := d }

/-- `REDRAW <- b` (R31). -/
def State.setRedraw (s : State) (b : Bool) : State := { s with redraw := b }

/-- `KEYS <- k`, all 16 bits (R32). -/
def State.setKeys (s : State) (k : BitVec 16) : State := { s with keys := k }

/-- `WAIT_KEY <- b` (R33). -/
def State.setWaitKey (s : State) (b : Bool) : State := { s with waitKey := b }

/-- `WAIT_X <- x` (R33). -/
def State.setWaitX (s : State) (x : Reg) : State := { s with waitX := x }

/-- Records the value the operation returns (log 1). -/
def State.setResult (s : State) (r : Result) : State := { s with result := r }

/-- The input byte of the coming Step, where the surroundings name it (log 2). -/
def State.setRnd (s : State) (r : Option Byte) : State := { s with rnd := r }

/-- The count of Steps (log 2). -/
def State.setDraws (s : State) (n : Nat) : State := { s with draws := n }

/-! ### Results and errors (R124, R230, R242) -/

/-- The execute phase ends without an error: the Step returns `OK` (R120, R124). -/
def State.done (s : State) : StepOut := .next (s.setResult .ok)

/-- `raise r`, the block's one way of taking an error (R6, R242): it saves nothing and redirects nothing; it ends the Step and
hands the result to the caller. There is no return from it (R243): the next Step goes on from this state. -/
def State.raise (s : State) (r : Result) : StepOut := .next (s.setResult r)

/-! ### Memory (R29, R60 to R76) -/

/-- `MEM_SIZE`, and the address past the end that the out-of-bounds results name (R4, R66, R67). -/
def memSize : Nat := 0x1000

/-- `ENTRY`: the program load address (R4, R61). -/
def entry : Nat := 0x200

/-- What a byte of memory that no operation has written since Reset holds: the font byte inside the font, else zero
(R36, R61, R260). This is what an unlisted address reads as (DEDUCED, safe, log 7). -/
def resetByte (cfg : Config) (a : Nat) : Byte :=
  if cfg.fontBase ≤ a ∧ a < cfg.fontBase + Config.fontSize then cfg.fontData.getD (a - cfg.fontBase) 0 else 0

/-- The byte a list of cells holds at an address, if it lists the address. -/
def Memory.lookup : List Host.Cell → Nat → Option Byte
  | [], _ => none
  | (k, c) :: rest, a => if a = k then some c else Memory.lookup rest a

/-- Puts a cell before the others, unless its byte is what the address reads as unlisted. -/
def Memory.cons (cfg : Config) (a : Nat) (b : Byte) (rest : List Host.Cell) : List Host.Cell :=
  if b = resetByte cfg a then rest else (a, b) :: rest

/-- Writes a byte, keeping the addresses rising and listing no byte that an unlisted address would read as. -/
def Memory.put (cfg : Config) : List Host.Cell → Nat → Byte → List Host.Cell
  | [], a, b => Memory.cons cfg a b []
  | (k, c) :: rest, a, b =>
    if k < a then (k, c) :: Memory.put cfg rest a b
    else if k = a then Memory.cons cfg a b rest
    else Memory.cons cfg a b ((k, c) :: rest)

/-- The canonical form from an address on: addresses strictly rising, inside memory, and no byte that is what an unlisted address
reads as. -/
def Memory.wfFrom (cfg : Config) : Nat → List Host.Cell → Bool
  | _, [] => true
  | lo, (k, c) :: rest =>
    decide (lo ≤ k) && decide (k < memSize) && decide (c ≠ resetByte cfg k) && Memory.wfFrom cfg (k + 1) rest

/-- The canonical form of memory: equal memories are equal lists. -/
def Memory.wf (cfg : Config) (m : List Host.Cell) : Bool := Memory.wfFrom cfg 0 m

/-- `MemRead(a, 1)` (R6, R72). -/
def State.readByte (s : State) (a : Nat) : Byte := (Memory.lookup s.mem a).getD (resetByte s.cfg a)

/-- `MemWrite(a, 1, b)` (R6, R72). -/
def State.writeByte (s : State) (a : Nat) (b : Byte) : State := s.setMem (Memory.put s.cfg s.mem a b)

/-- A run of one-byte reads at consecutive addresses (R64). -/
def State.readBytes (s : State) (a : Nat) : Nat → List Byte
  | 0 => []
  | k + 1 => s.readByte a :: State.readBytes s (a + 1) k

/-- A run of one-byte writes at consecutive addresses, the lowest first (R64). -/
def State.writeBytes (s : State) (a : Nat) : List Byte → State
  | [] => s
  | b :: bs => State.writeBytes (s.writeByte a b) (a + 1) bs

/-- Writes consecutive registers from number `k` on, in ascending order (R184). -/
def State.writeRegs (s : State) (k : Nat) : List Byte → State
  | [] => s
  | b :: bs => State.writeRegs (s.writeV (BitVec.ofNat 4 k) b) (k + 1) bs

/-- `MemRead(a, 2)`: the 16-bit value of two bytes, the first the high one; only the fetch uses it (R6, R63). -/
def State.readWord (s : State) (a : Nat) : Word := wordOfBytes (s.readByte a) (s.readByte (a + 1))

/-! ### The call stack (R27, R28) -/

/-- `STACK[k]` (R27). -/
def State.stackEntry (s : State) (k : Nat) : Word := s.stack.getD k 0

/-- `push(w)`; none where the stack is full (R28; for an `SP` above `STACK_DEPTH`, which no run reaches, DESIGN CHOICE, safe,
log 8). -/
def State.push (s : State) (w : Word) : Option State :=
  if s.sp < s.cfg.stackDepth then some ((s.setStack (s.stack.set s.sp w)).setSp (s.sp + 1)) else none

/-- `pop()`: the newest entry and the state without it; none where the stack is empty. The entry keeps its value (R28). -/
def State.pop (s : State) : Option (Word × State) :=
  match s.sp with
  | 0 => none
  | k + 1 => some (s.stackEntry k, s.setSp k)

/-! ### The display buffer (R30) -/

/-- `DISP_W` and `DISP_H` (R4). -/
def dispW : Nat := 64
@[inherit_doc dispW] def dispH : Nat := 32

/-- `DISP[k]` (R30). -/
def Screen.pixel (d : Screen) (k : Nat) : Bool := (d[k / 64]?.getD 0).getLsbD (k % 64)

/-- `DISP[k] <- DISP[k] ^ 1` (R201). -/
def Screen.flip (d : Screen) (k : Nat) : Screen :=
  d.setIfInBounds (k / 64) ((d[k / 64]?.getD 0) ^^^ BitVec.twoPow 64 (k % 64))

/-- Every pixel off (R200). -/
def Screen.off : Screen := Vector.replicate 32 0

/-- `DISP[k]` of a state. -/
def State.pixel (s : State) (k : Nat) : Bool := Screen.pixel s.disp k

/-! ### The random byte (R120, R173) -/

/-- `rnd`, the input byte of this Step: the one the surroundings name, else a free value (log 2). -/
def State.rndByte (s : State) : Byte :=
  match s.rnd with
  | some r => r
  | none => Config.freeRnd s.draws

/-- The Step is over: its input byte is used up, and the next Step has one of its own (log 2). -/
def State.endStep (s : State) : State := (s.setRnd none).setDraws (s.draws + 1)

end Sys2Proof.Machine
end

