-- ==== Sys2Proof/Machine/Operands.lean ====
section
/-! DEFINITION. The operand forms: what an instruction reads before it writes anything, and the addresses it works on
(spec/20_memory.md R66, R67, spec/30_encoding.md R93, and the rules of each form). -/

namespace Sys2Proof.Machine

/-- `DataAddr(k) = I[11:0] + k`, not reduced (R67). -/
def State.dataAddr (s : State) (k : Nat) : Nat := (Word.low12 s.i).toNat + k

/-- Whether the first `k` bytes of an index-relative access lie inside memory (R67, R68). -/
def State.dataFits (s : State) (k : Nat) : Bool := decide (s.dataAddr k ≤ memSize)

/-- An instruction that accesses the first `k` index-relative bytes: its effect where they lie inside memory, else
`DATA_OOB` with the first address past the end, and nothing of the effect (R67, R68, R235). -/
def State.withData (s : State) (k : Nat) (effect : State) : StepOut :=
  if s.dataFits k then effect.done else s.raise (.dataOob memSize)

/-- The source of the shifts: `V[y]` if `SHIFT_SRC_VY`, else `V[x]` (R169, R171). -/
def State.shiftSource (s : State) (x y : Reg) : Byte :=
  if s.cfg.shiftSrcVy then s.readV y else s.readV x

/-- `KEYS[V[x][3:0]]` (R210). -/
def State.keyOf (s : State) (x : Reg) : Bool := s.keys.getLsbD ((s.readV x).extractLsb' 0 4).toNat

/-- The least `k` with `KEYS[k] = 1`, if a key is down (R125, R213). -/
def leastKey (keys : BitVec 16) : Option Nat := (List.range 16).find? (fun k => keys.getLsbD k)

/-- The registers V0 to Vx, in ascending order: the bytes of the block store (R184). -/
def State.regBlock (s : State) (x : Reg) : List Byte := s.v.toList.take (x.toNat + 1)

/-- The bytes a register block load reads, one for each of V0 to Vx (R184). -/
def State.dataBlock (s : State) (x : Reg) : List Byte := s.readBytes (s.dataAddr 0) (x.toNat + 1)

/-- Hundreds, tens and ones of a byte (R183). -/
def decimalDigits (b : Byte) : List Byte :=
  [BitVec.ofNat 8 (b.toNat / 100), BitVec.ofNat 8 (b.toNat / 10 % 10), BitVec.ofNat 8 (b.toNat % 10)]

/-- `FONT_BASE + 5 * V[x]`, on the whole register value (R182). -/
def State.glyphAddr (s : State) (x : Reg) : Word := BitVec.ofNat 16 (s.cfg.fontBase + 5 * (s.readV x).toNat)

/-- `x0 = V[x] mod 64` (R201). -/
def State.spriteX (s : State) (x : Reg) : Nat := (s.readV x).toNat % dispW

/-- `y0 = V[y] mod 32` (R201). -/
def State.spriteY (s : State) (y : Reg) : Nat := (s.readV y).toNat % dispH

/-- `rows = min(n, 32 - y0)`: the rows of a sprite that are read and drawn (R201). -/
def State.spriteRows (s : State) (y : Reg) (n : Nat) : Nat := min n (dispH - s.spriteY y)

end Sys2Proof.Machine
end

