-- ==== Sys2Proof/Machine/Flags.lean ====
section
/-! DEFINITION. The flag computations, all of them writes of VF with 0 or 1 (spec/10_state.md R22, spec/42_load_alu_random.md R160). -/

namespace Sys2Proof.Machine

/-- VF, `V[15]` (R22). -/
def vf : Reg := 0xF

/-- A flag is exactly 0 or 1 (R160 h). -/
def flagByte (b : Bool) : Byte := if b then 1 else 0

/-- Carry of an addition: 1 iff the integer sum is above 255 (R160 c). -/
def carryFlag (a b : Byte) : Byte := flagByte (decide (a.toNat + b.toNat > 255))

/-- Not-borrow of a subtraction: 1 iff minuend >= subtrahend (R160 d). -/
def notBorrowFlag (minuend subtrahend : Byte) : Byte := flagByte (decide (minuend.toNat ≥ subtrahend.toNat))

/-- The bit a right shift by one shifts out (R160 e). -/
def shiftRightFlag (b : Byte) : Byte := flagByte (b.getLsbD 0)

/-- The bit a left shift by one shifts out (R160 e). -/
def shiftLeftFlag (b : Byte) : Byte := flagByte (b.getLsbD 7)

/-- The result register is written first and VF last, so that with `x = 15` the flag stays (R160 f). -/
def State.writeResultFlag (s : State) (x : Reg) (res flag : Byte) : State := (s.writeV x res).writeV vf flag

end Sys2Proof.Machine
end

