-- ==== Sys2Proof/Machine/Alu.lean ====
section
/-! DEFINITION. The load, arithmetic, logic, shift and random instructions (spec/42_load_alu_random.md). -/

namespace Sys2Proof.Machine

/-- `LD Vx, kk` (R161). -/
def execLdImm (x : Reg) (kk : Byte) (s : State) : StepOut := (s.writeV x kk).done

/-- `ADD Vx, kk` (R162): VF is not written as a flag. -/
def execAddImm (x : Reg) (kk : Byte) (s : State) : StepOut := (s.writeV x (s.readV x + kk)).done

/-- `LD Vx, Vy` (R163). -/
def execLdReg (x y : Reg) (s : State) : StepOut := (s.writeV x (s.readV y)).done

/-- `OR Vx, Vy` (R164): VF is not written as a flag. -/
def execOr (x y : Reg) (s : State) : StepOut := (s.writeV x (s.readV x ||| s.readV y)).done

/-- `AND Vx, Vy` (R165): VF is not written as a flag. -/
def execAnd (x y : Reg) (s : State) : StepOut := (s.writeV x (s.readV x &&& s.readV y)).done

/-- `XOR Vx, Vy` (R166): VF is not written as a flag. -/
def execXor (x y : Reg) (s : State) : StepOut := (s.writeV x (s.readV x ^^^ s.readV y)).done

/-- `ADD Vx, Vy` (R167): the sum, then the carry in VF. -/
def execAddReg (x y : Reg) (s : State) : StepOut :=
  (s.writeResultFlag x (s.readV x + s.readV y) (carryFlag (s.readV x) (s.readV y))).done

/-- `SUB Vx, Vy` (R168): minuend `V[x]`, subtrahend `V[y]`; not-borrow in VF. -/
def execSub (x y : Reg) (s : State) : StepOut :=
  (s.writeResultFlag x (s.readV x - s.readV y) (notBorrowFlag (s.readV x) (s.readV y))).done

/-- `SHR Vx, Vy` (R169). -/
def execShr (x y : Reg) (s : State) : StepOut :=
  (s.writeResultFlag x (s.shiftSource x y >>> 1) (shiftRightFlag (s.shiftSource x y))).done

/-- `SUBN Vx, Vy` (R170): minuend `V[y]`, subtrahend `V[x]`; not-borrow in VF. -/
def execSubn (x y : Reg) (s : State) : StepOut :=
  (s.writeResultFlag x (s.readV y - s.readV x) (notBorrowFlag (s.readV y) (s.readV x))).done

/-- `SHL Vx, Vy` (R171). -/
def execShl (x y : Reg) (s : State) : StepOut :=
  (s.writeResultFlag x (s.shiftSource x y <<< 1) (shiftLeftFlag (s.shiftSource x y))).done

/-- `RND Vx, kk` (R173): the input byte of this Step under a mask. -/
def execRnd (x : Reg) (kk : Byte) (s : State) : StepOut := (s.writeV x (s.rndByte &&& kk)).done

end Sys2Proof.Machine
end

