-- ==== Sys2Proof/Machine/Control.lean ====
section
/-! DEFINITION. The control-flow instructions (spec/41_control_flow.md). `PC` holds the post-fetch value when a meaning starts. -/

namespace Sys2Proof.Machine

/-- A skip: an extra 2 on the post-fetch PC where the condition holds (R147). -/
def State.skipIf (s : State) (c : Bool) : StepOut := (if c then s.setPc (s.pc + 2) else s).done

/-- `RET` (R140). -/
def execRet (s : State) : StepOut :=
  match s.pop with
  | some (w, t) => (t.setPc w).done
  | none => s.raise .stackUnderflow

/-- `JP nnn` (R141). -/
def execJp (nnn : Addr) (s : State) : StepOut := (s.setPc (Addr.zext nnn)).done

/-- `CALL nnn` (R142). -/
def execCall (nnn : Addr) (s : State) : StepOut :=
  match s.push s.pc with
  | some t => (t.setPc (Addr.zext nnn)).done
  | none => s.raise .stackOverflow

/-- `SE Vx, kk` (R143). -/
def execSeImm (x : Reg) (kk : Byte) (s : State) : StepOut := s.skipIf (s.readV x == kk)

/-- `SNE Vx, kk` (R144). -/
def execSneImm (x : Reg) (kk : Byte) (s : State) : StepOut := s.skipIf (s.readV x != kk)

/-- `SE Vx, Vy` (R145). -/
def execSeReg (x y : Reg) (s : State) : StepOut := s.skipIf (s.readV x == s.readV y)

/-- `SNE Vx, Vy` (R146). -/
def execSneReg (x y : Reg) (s : State) : StepOut := s.skipIf (s.readV x != s.readV y)

/-- `JP V0, nnn` (R148): the offset register is always V0, and the sum is not reduced. -/
def execJpV0 (nnn : Addr) (s : State) : StepOut := (s.setPc (Addr.zext nnn + Byte.zext (s.readV 0))).done

end Sys2Proof.Machine
end

