-- ==== Sys2Proof/Machine/Display.lean ====
section
/-! DEFINITION. The display instructions and the sprite-XOR blitter (spec/44_display.md). -/

namespace Sys2Proof.Machine

/-- `CLS` (R200). -/
def execCls (s : State) : StepOut := ((s.setDisp Screen.off).setRedraw true).done

/-- What a sprite draw works on: the display buffer, and whether a set sprite bit has met a set pixel. -/
structure Canvas where
  disp : Screen
  hit : Bool
  deriving DecidableEq, Repr

/-- One sprite bit at one pixel: collision first, then XOR (R201). -/
def Canvas.plot (c : Canvas) (k : Nat) (bit : Bool) : Canvas :=
  if bit then ⟨Screen.flip c.disp k, c.hit || Screen.pixel c.disp k⟩ else c

/-- The inner loop of R201: the bits of one sprite byte at the given columns of it, bit 7 the leftmost; the row ends where the
column reaches the right edge (no horizontal wrap). -/
def Canvas.drawBits (b : Byte) (row x0 : Nat) : List Nat → Canvas → Canvas
  | [], c => c
  | j :: js, c =>
    if x0 + j ≥ dispW then c
    else Canvas.drawBits b row x0 js (c.plot (row * dispW + (x0 + j)) (b.getLsbD (7 - j)))

/-- The outer loop of R201: one sprite byte for each row, from the top; each row starts at column `x0`. -/
def Canvas.drawRows (x0 : Nat) : Nat → List Byte → Canvas → Canvas
  | _, [], c => c
  | row, b :: bs, c => Canvas.drawRows x0 (row + 1) bs (Canvas.drawBits b row x0 [0, 1, 2, 3, 4, 5, 6, 7] c)

/-- The drawn display buffer and the collision of `DRW Vx, Vy, n` at a state (R201). -/
def State.drawn (s : State) (x y : Reg) (n : Nat) : Canvas :=
  Canvas.drawRows (s.spriteX x) (s.spriteY y) (s.readBytes (s.dataAddr 0) (s.spriteRows y n)) ⟨s.disp, false⟩

/-- `DRW Vx, Vy, n` (R201): both origins are read before VF is written, and the bound is checked on the rows that are read. -/
def execDrw (x y : Reg) (n : Nat) (s : State) : StepOut :=
  s.withData (s.spriteRows y n)
    (((s.setDisp (s.drawn x y n).disp).writeV vf (flagByte (s.drawn x y n).hit)).setRedraw true)

end Sys2Proof.Machine
end

