-- ==== Sys2Proof/Machine/IndexMem.lean ====
section
/-! DEFINITION. The index-register and memory instructions (spec/43_index_memory.md). -/

namespace Sys2Proof.Machine

/-- `LD I, nnn` (R180). -/
def execLdI (nnn : Addr) (s : State) : StepOut := (s.setI (Addr.zext nnn)).done

/-- `ADD I, Vx` (R181): 16-bit accumulation, no flag. -/
def execAddI (x : Reg) (s : State) : StepOut := (s.setI (s.i + Byte.zext (s.readV x))).done

/-- `LD F, Vx` (R182). -/
def execLdF (x : Reg) (s : State) : StepOut := (s.setI (s.glyphAddr x)).done

/-- `LD B, Vx` (R183): three digit bytes at `DataAddr(0)` to `DataAddr(2)`. -/
def execLdB (x : Reg) (s : State) : StepOut :=
  s.withData 3 (s.writeBytes (s.dataAddr 0) (decimalDigits (s.readV x)))

/-- `LD [I], Vx` (R184, R185): V0 to Vx at `DataAddr(0)` to `DataAddr(x)`; I is unchanged. -/
def execStRegs (x : Reg) (s : State) : StepOut :=
  s.withData (x.toNat + 1) (s.writeBytes (s.dataAddr 0) (s.regBlock x))

/-- `LD Vx, [I]` (R184, R186): V0 to Vx from `DataAddr(0)` to `DataAddr(x)`; I is unchanged. -/
def execLdRegs (x : Reg) (s : State) : StepOut :=
  s.withData (x.toNat + 1) (s.writeRegs 0 (s.dataBlock x))

end Sys2Proof.Machine
end

