-- ==== Sys2Proof/Machine/KeyTimer.lean ====
section
/-! DEFINITION. The key-pad and timer instructions (spec/45_keypad_timers.md). -/

namespace Sys2Proof.Machine

/-- `SKP Vx` (R211). -/
def execSkp (x : Reg) (s : State) : StepOut := s.skipIf (s.keyOf x)

/-- `SKNP Vx` (R212). -/
def execSknp (x : Reg) (s : State) : StepOut := s.skipIf (!s.keyOf x)

/-- `LD Vx, K` (R213): with a key down it completes in this Step, else it enters the wait state. -/
def execLdVxK (x : Reg) (s : State) : StepOut :=
  match leastKey s.keys with
  | some k => (s.writeV x (BitVec.ofNat 8 k)).done
  | none => ((s.setWaitKey true).setWaitX x).done

/-- `LD Vx, DT` (R214). -/
def execLdVxDt (x : Reg) (s : State) : StepOut := (s.writeV x s.dt).done

/-- `LD DT, Vx` (R215). -/
def execLdDtVx (x : Reg) (s : State) : StepOut := (s.setDt (s.readV x)).done

/-- `LD ST, Vx` (R216). -/
def execLdStVx (x : Reg) (s : State) : StepOut := (s.setSt (s.readV x)).done

end Sys2Proof.Machine
end

