-- ==== Sys2Proof/Machine/Fsm.lean ====
section
/-! DEFINITION. The fetch-decode-execute FSM (spec/40_step_fsm.md R120 to R129), which Step.lean calls. -/

namespace Sys2Proof.Machine

/-- The address of the fetch, `PC[11:0]` (R66, R121). -/
def State.fetchAddr (s : State) : Nat := (Word.low12 s.pc).toNat

/-- The fetch phase: the bound check, the opcode word, and PC advanced by 2 modulo 65536 (R66, R121). -/
def State.fetch (s : State) : Except Result (Word × State) :=
  if s.fetchAddr = 0xFFF then .error (.fetchOob memSize)
  else .ok (s.readWord s.fetchAddr, s.setPc (s.pc + 2))

/-- The waiting Step: the lowest key that is down goes to `V[WAIT_X]` and ends the wait; with no key down nothing changes. It
fetches nothing, leaves PC alone and returns OK (R125). -/
def State.waitStep (s : State) : StepOut :=
  match leastKey s.keys with
  | some k => ((s.writeV s.waitX (BitVec.ofNat 8 k)).setWaitKey false).done
  | none => s.done

/-- Decode and execute at the post-fetch state; an unknown opcode is reported and nothing else happens (R122, R123, R128). -/
def State.dispatch (s : State) (w : Word) : StepOut :=
  match decode w with
  | .ok i => exec i s
  | .error _ => s.raise (.unknownOpcode w)

/-- One Step in the RUN control state (R120, R126). -/
def State.runStep (s : State) : StepOut :=
  match s.fetch with
  | .ok (w, t) => t.dispatch w
  | .error r => s.raise r

/-- The Step is over, whatever its result (log 2). -/
def finishStep : StepOut → StepOut
  | .next s => .next s.endStep
  | .fault f => .fault f
  | .refused r => .refused r

/-- `Step(rnd)`, the input byte being `State.rndByte` (R120): the wait state first, then fetch, decode, execute. -/
def State.stepOnce (s : State) : StepOut := finishStep (if s.waitKey then s.waitStep else s.runStep)

/-- The state whose next Step fetches the word `w`: RUN control state, and the two bytes of `w` at the fetch address, high byte
first (R63). From a PC that cannot be fetched at (R66), PC is moved to the entry point. -/
def State.placeWord (s : State) (w : Word) : State :=
  let t := if s.fetchAddr = 0xFFF then s.setPc 0x0200 else s
  (t.writeBytes t.fetchAddr [hiByte w, loByte w]).setWaitKey false

end Sys2Proof.Machine
end

