-- ==== Sys2Proof/Machine/Step.lean ====
section
/-! DEFINITION. The step of the machine: one Step operation (spec/40_step_fsm.md R120). -/

namespace Sys2Proof.Machine

/-- One Step (R120). Its three outcomes are the host's; every error of the block is a next state (DEDUCED, safe,
log 1). -/
def step (s : State) : Host.Outcome State Fault Refusal := s.stepOnce

/-- The state with a table word stored where the next Step fetches (DESIGN CHOICE, log 6). -/
def State.withFetchWord (s : State) (nbits w : Nat) : State := s.placeWord (tableWord nbits w)

end Sys2Proof.Machine
end

