-- ==== Sys2Proof/Machine/Surroundings.lean ====
section
/-! DEFINITION. The operations of the surroundings (spec/00_scope.md R7, spec/40_step_fsm.md R130 to R133, spec/20_memory.md R71,
spec/70_reset_and_hazards.md R260). -/

namespace Sys2Proof.Machine

/-- `Reset` (R260): the parameters are those of the block; the count of Steps goes on, so that no free byte comes
twice (DESIGN CHOICE, log 2). -/
def State.resetOp (s : State) : State := (State.resetWith s.cfg).setDraws s.draws

/-- `MAX_PROGRAM` (R4, R71). -/
def maxProgram : Nat := memSize - entry

/-- `LoadProgram(bytes)` (R71): rejected whole where it is too long, else copied to memory from the entry point on. -/
def State.loadProgram (s : State) (bytes : List Byte) : State :=
  if bytes.length > maxProgram then s.setResult .programTooLarge
  else (s.writeBytes entry bytes).setResult .ok

/-- A countdown by one toward zero, never below (R130). -/
def countDown (b : Byte) : Byte := if b = 0 then 0 else b - 1

/-- `TimerTick` (R130). -/
def State.timerTick (s : State) : State := (s.setDt (countDown s.dt)).setSt (countDown s.st)

/-- `ClearRedraw` (R132). -/
def State.clearRedraw (s : State) : State := s.setRedraw false

/-- `Step(rnd)` with its input byte (R120). -/
def State.stepRnd (s : State) (rnd : Byte) : StepOut := step (s.setRnd (some rnd))

/-- The moves of the surroundings (R7, R133). -/
inductive HostOp where
  | reset
  | loadProgram (bytes : List Byte)
  | setKeys (k : BitVec 16)
  | clearRedraw
  | timerTick
  | step (rnd : Byte)
  deriving DecidableEq, Repr

/-- One operation, atomic and complete (R7, R72). -/
def HostOp.apply (o : HostOp) (s : State) : StepOut :=
  match o with
  | .reset => .next s.resetOp
  | .loadProgram bytes => .next (s.loadProgram bytes)
  | .setKeys k => .next (s.setKeys k)
  | .clearRedraw => .next s.clearRedraw
  | .timerTick => .next s.timerTick
  | .step rnd => s.stepRnd rnd

/-- An interleaving: operations in the order the surroundings invoke them (R131). -/
def HostOp.run : List HostOp → State → StepOut
  | [], s => .next s
  | o :: os, s =>
    match o.apply s with
    | .next t => HostOp.run os t
    | .fault f => .fault f
    | .refused r => .refused r

end Sys2Proof.Machine
end

