-- ==== Sys2Proof/Safety.lean ====
section
/-! DEFINITION. The terms claims are stated in: the state invariants (spec/10_state.md R37), what an operation leaves unchanged, and
runs of instructions. -/

namespace Sys2Proof.Machine

/-- The state invariants of R37, with the canonical form of memory and the legal parameters of R4. Widths of fields (R37 b) are in
their types. -/
structure State.Inv (s : State) : Prop where
  /-- The parameters are in the ranges of R4. -/
  cfgLegal : s.cfg.Legal
  /-- `0 <= SP <= STACK_DEPTH` (R37 a). -/
  spBound : s.sp ≤ s.cfg.stackDepth
  /-- The call stack has STACK_DEPTH entries (R27, R37 e). -/
  stackSize : s.stack.length = s.cfg.stackDepth
  /-- Memory is in canonical form, with addresses 0x000 to 0xFFF only (R29, R37 e). -/
  memWf : Memory.wf s.cfg s.mem = true

/-- The pieces of the state that frames speak of: those of R20, then the model's own fields. -/
inductive Part where
  | v | i | pc | dt | st | stack | sp | mem | disp | redraw | keys | waitKey | waitX | cfg | rnd | draws | result
  deriving DecidableEq, Repr

/-- A piece of the state is the same in two states: registers, stack entries, memory bytes and pixels are compared one by one, as
they read. -/
def Part.Same (s t : State) : Part → Prop
  | .v => ∀ r, t.readV r = s.readV r
  | .i => t.i = s.i
  | .pc => t.pc = s.pc
  | .dt => t.dt = s.dt
  | .st => t.st = s.st
  | .stack => ∀ k, t.stackEntry k = s.stackEntry k
  | .sp => t.sp = s.sp
  | .mem => ∀ a, t.readByte a = s.readByte a
  | .disp => ∀ k, t.pixel k = s.pixel k
  | .redraw => t.redraw = s.redraw
  | .keys => t.keys = s.keys
  | .waitKey => t.waitKey = s.waitKey
  | .waitX => t.waitX = s.waitX
  | .cfg => t.cfg = s.cfg
  | .rnd => t.rnd = s.rnd
  | .draws => t.draws = s.draws
  | .result => t.result = s.result

/-- Every piece of the state that is not listed is unchanged from `s` to `t`. -/
def OnlyChanges (ps : List Part) (s t : State) : Prop := ∀ p, p ∉ ps → p.Same s t

/-- Every register but those listed is unchanged from `s` to `t`. -/
def RegsKept (xs : List Reg) (s t : State) : Prop := ∀ r, r ∉ xs → t.readV r = s.readV r

/-- The execute phase answers the next state `t` with the result OK. -/
def Completes (i : Instr) (s t : State) : Prop := exec i s = .next t ∧ t.result = .ok

/-- The execute phase raises `r`: it answers the state as it was with the result `r` recorded, and nothing else (R242). -/
def Raises (i : Instr) (s : State) (r : Result) : Prop := exec i s = .next (s.setResult r)

/-- The pieces of the state an instruction may write in its execute phase, by the rules of the instruction files and the
Step column of R38; the result is written always. -/
def writtenParts : Instr → List Part
  | .cls => [.disp, .redraw, .result]
  | .ret => [.pc, .sp, .result]
  | .jp _ => [.pc, .result]
  | .call _ => [.pc, .sp, .stack, .result]
  | .seImm _ _ => [.pc, .result]
  | .sneImm _ _ => [.pc, .result]
  | .seReg _ _ => [.pc, .result]
  | .ldImm _ _ => [.v, .result]
  | .addImm _ _ => [.v, .result]
  | .ldReg _ _ => [.v, .result]
  | .orReg _ _ => [.v, .result]
  | .andReg _ _ => [.v, .result]
  | .xorReg _ _ => [.v, .result]
  | .addReg _ _ => [.v, .result]
  | .subReg _ _ => [.v, .result]
  | .shr _ _ => [.v, .result]
  | .subn _ _ => [.v, .result]
  | .shl _ _ => [.v, .result]
  | .sneReg _ _ => [.pc, .result]
  | .ldI _ => [.i, .result]
  | .jpV0 _ => [.pc, .result]
  | .rnd _ _ => [.v, .result]
  | .drw _ _ _ => [.v, .disp, .redraw, .result]
  | .skp _ => [.pc, .result]
  | .sknp _ => [.pc, .result]
  | .ldVxDt _ => [.v, .result]
  | .ldVxK _ => [.v, .waitKey, .waitX, .result]
  | .ldDtVx _ => [.dt, .result]
  | .ldStVx _ => [.st, .result]
  | .addI _ => [.i, .result]
  | .ldF _ => [.i, .result]
  | .ldB _ => [.mem, .result]
  | .stRegs _ => [.mem, .result]
  | .ldRegs _ => [.v, .result]

/-- The general registers an instruction may write (R22, R172 and the rules of the instruction files). -/
def writtenRegs : Instr → List Reg
  | .cls => []
  | .ret => []
  | .jp _ => []
  | .call _ => []
  | .seImm _ _ => []
  | .sneImm _ _ => []
  | .seReg _ _ => []
  | .ldImm x _ => [x]
  | .addImm x _ => [x]
  | .ldReg x _ => [x]
  | .orReg x _ => [x]
  | .andReg x _ => [x]
  | .xorReg x _ => [x]
  | .addReg x _ => [x, vf]
  | .subReg x _ => [x, vf]
  | .shr x _ => [x, vf]
  | .subn x _ => [x, vf]
  | .shl x _ => [x, vf]
  | .sneReg _ _ => []
  | .ldI _ => []
  | .jpV0 _ => []
  | .rnd x _ => [x]
  | .drw _ _ _ => [vf]
  | .skp _ => []
  | .sknp _ => []
  | .ldVxDt x => [x]
  | .ldVxK x => [x]
  | .ldDtVx _ => []
  | .ldStVx _ => []
  | .addI _ => []
  | .ldF _ => []
  | .ldB _ => []
  | .stRegs _ => []
  | .ldRegs x => (List.range (x.toNat + 1)).map (BitVec.ofNat 4)

/-- The one error an instruction can raise, if any (R237, R241). -/
def raisable : Instr → Option Result
  | .cls => none
  | .ret => some .stackUnderflow
  | .jp _ => none
  | .call _ => some .stackOverflow
  | .seImm _ _ => none
  | .sneImm _ _ => none
  | .seReg _ _ => none
  | .ldImm _ _ => none
  | .addImm _ _ => none
  | .ldReg _ _ => none
  | .orReg _ _ => none
  | .andReg _ _ => none
  | .xorReg _ _ => none
  | .addReg _ _ => none
  | .subReg _ _ => none
  | .shr _ _ => none
  | .subn _ _ => none
  | .shl _ _ => none
  | .sneReg _ _ => none
  | .ldI _ => none
  | .jpV0 _ => none
  | .rnd _ _ => none
  | .drw _ _ _ => some (.dataOob memSize)
  | .skp _ => none
  | .sknp _ => none
  | .ldVxDt _ => none
  | .ldVxK _ => none
  | .ldDtVx _ => none
  | .ldStVx _ => none
  | .addI _ => none
  | .ldF _ => none
  | .ldB _ => some (.dataOob memSize)
  | .stRegs _ => some (.dataOob memSize)
  | .ldRegs _ => some (.dataOob memSize)

/-- What a conditional skip compares, where the instruction is one: whether it skips at a state (R143 to R147, R211, R212). -/
def skipCondition (s : State) : Instr → Option Bool
  | .cls => none
  | .ret => none
  | .jp _ => none
  | .call _ => none
  | .seImm x kk => some (s.readV x == kk)
  | .sneImm x kk => some (s.readV x != kk)
  | .seReg x y => some (s.readV x == s.readV y)
  | .ldImm _ _ => none
  | .addImm _ _ => none
  | .ldReg _ _ => none
  | .orReg _ _ => none
  | .andReg _ _ => none
  | .xorReg _ _ => none
  | .addReg _ _ => none
  | .subReg _ _ => none
  | .shr _ _ => none
  | .subn _ _ => none
  | .shl _ _ => none
  | .sneReg x y => some (s.readV x != s.readV y)
  | .ldI _ => none
  | .jpV0 _ => none
  | .rnd _ _ => none
  | .drw _ _ _ => none
  | .skp x => some (s.keyOf x)
  | .sknp x => some (!s.keyOf x)
  | .ldVxDt _ => none
  | .ldVxK _ => none
  | .ldDtVx _ => none
  | .ldStVx _ => none
  | .addI _ => none
  | .ldF _ => none
  | .ldB _ => none
  | .stRegs _ => none
  | .ldRegs _ => none

/-- A word is the encoding of an instruction: it decodes to it, and the encoder gives it. -/
def EncodedAs (w : Word) (i : Instr) : Prop := decode w = .ok i ∧ encode i = w

/-- The bit of the sprite of `DRW Vx, Vy, n` that falls on the pixel of column `px` and row `py`, in the terms of R201: the pixel
is at most 7 columns right of `x0`, and in one of the `rows` rows from `y0` on; bit 7 of a byte is the leftmost. -/
def State.spriteAt (s : State) (x y : Reg) (n px py : Nat) : Bool :=
  decide (s.spriteX x ≤ px ∧ px < s.spriteX x + 8 ∧ s.spriteY y ≤ py ∧ py < s.spriteY y + s.spriteRows y n) &&
    (s.readByte (s.dataAddr (py - s.spriteY y))).getLsbD (7 - (px - s.spriteX x))

/-- The instruction word the next Step fetches (R66, R121). -/
def State.nextWord (s : State) : Word := s.readWord s.fetchAddr

/-- The execute phases of several instructions, one after the other. -/
def execAll : List Instr → State → StepOut
  | [], s => .next s
  | i :: is, s =>
    match exec i s with
    | .next t => execAll is t
    | .fault f => .fault f
    | .refused r => .refused r

end Sys2Proof.Machine
end

