-- ==== Sys2Proof/Certificates/Slice0/Obligations.lean ====
section
/-! DEFINITION. The statements for the provers, in the order of OBLIGATIONS.json. "Completes", "Raises", "OnlyChanges", "RegsKept"
and "EncodedAs" are in Sys2Proof/Safety.lean; the execute phase starts with PC at the post-fetch value. -/

open Sys2Proof Sys2Proof.Machine

/-! ### Encoding -/

/-- Decoding an encoded well-formed instruction gives it back, from its word and from its bytes (R95, R98). The bit patterns are
the spec's general knowledge (decision D22, log 4). -/
def Obligations.DecodeOfEncode : Prop :=
  ∀ i : Instr, i.wf = true →
    decode (encode i) = .ok i ∧ ∀ rest, decodeBytes (encodeBytes i ++ rest) = .ok (i, rest)

/-- A word that decodes is the encoding of what it decodes to, which is well formed: no bit of an admitted word is dropped (R97). -/
def Obligations.EncodeOfDecode : Prop :=
  ∀ (w : Word) (i : Instr), decode w = .ok i → i.wf = true ∧ encode i = w

/-- R98: every word decodes to exactly one row of the opcode map with its field values, or is unknown; an instruction takes two
bytes, whatever follows them. -/
def Obligations.DecoderTotalOverOpcodeMap : Prop :=
  (∀ w : Word,
    (∃ i, decode w = .ok i ∧ encode i = w ∧ i.row ∈ opcodeMap ∧ ∀ r ∈ opcodeMap, (r.selects w = true ↔ r = i.row)) ∨
    (decode w = .error (.unknownOpcode w) ∧ ∀ r ∈ opcodeMap, r.selects w = false)) ∧
  (∀ (hi lo : Byte) (rest : List Byte) (i : Instr),
    decode (wordOfBytes hi lo) = .ok i → decodeBytes (hi :: lo :: rest) = .ok (i, rest)) ∧
  (∀ (hi lo : Byte) (rest : List Byte) (e : DecodeError),
    decode (wordOfBytes hi lo) = .error e → decodeBytes (hi :: lo :: rest) = .error e)

/-- No word matches two of the 34 rows of the opcode map (R95; the map itself is decision D22, log 4). -/
def Obligations.OpcodeRowsDisjoint : Prop :=
  opcodeMap.length = 34 ∧ opcodeMap.Nodup ∧
  ∀ (w : Word) (r₁ r₂ : OpcodeRow), r₁ ∈ opcodeMap → r₂ ∈ opcodeMap →
    r₁.selects w = true → r₂.selects w = true → r₁ = r₂

/-- R91: the five fields are the masks of the opcode word, and they overlap as the layout says. -/
def Obligations.FieldsAreMasks : Prop :=
  ∀ w : Word,
    (fieldNnn w).setWidth 16 = w &&& 0x0FFF#16 ∧
    (fieldKk w).setWidth 16 = w &&& 0x00FF#16 ∧
    (fieldN w).setWidth 16 = w &&& 0x000F#16 ∧
    (fieldX w).setWidth 16 = (w >>> 8) &&& 0xF#16 ∧
    (fieldY w).setWidth 16 = (w >>> 4) &&& 0xF#16 ∧
    (fieldOp w).setWidth 16 = w >>> 12 ∧
    fieldKk w = fieldY w ++ fieldN w ∧
    fieldNnn w = fieldX w ++ fieldY w ++ fieldN w

/-- The unknown opcodes are the six groups of R96 (decision D21). -/
def Obligations.UnknownOpcodesAreSixGroups : Prop :=
  ∀ w : Word,
    decode w = .error (.unknownOpcode w) ↔
      (fieldOp w = 0x0 ∧ w ≠ 0x00E0#16 ∧ w ≠ 0x00EE#16) ∨
      (fieldOp w = 0x5 ∧ fieldN w ≠ 0) ∨
      (fieldOp w = 0x8 ∧ fieldN w ∈ [0x8#4, 0x9#4, 0xA#4, 0xB#4, 0xC#4, 0xD#4, 0xF#4]) ∨
      (fieldOp w = 0x9 ∧ fieldN w ≠ 0) ∨
      (fieldOp w = 0xE ∧ fieldKk w ∉ [0x9E#8, 0xA1#8]) ∨
      (fieldOp w = 0xF ∧
        fieldKk w ∉ [0x07#8, 0x0A#8, 0x15#8, 0x18#8, 0x1E#8, 0x29#8, 0x33#8, 0x55#8, 0x65#8])

/-- Words written out from the patterns of R95, and the instructions they stand for; the first three are the source's (R95). -/
def Obligations.SampleWordsDecode : Prop :=
  decode 0x6234#16 = .ok (.ldImm 2 0x34) ∧
  decode 0xA234#16 = .ok (.ldI 0x234) ∧
  decode 0x00E0#16 = .ok .cls ∧
  decode 0x00EE#16 = .ok .ret ∧
  decode 0x3310#16 = .ok (.seImm 3 0x10) ∧
  decode 0x8125#16 = .ok (.subReg 1 2) ∧
  decode 0x812E#16 = .ok (.shl 1 2) ∧
  decode 0xD12A#16 = .ok (.drw 1 2 10) ∧
  decode 0xE19E#16 = .ok (.skp 1) ∧
  decode 0xF133#16 = .ok (.ldB 1)

/-! ### Memory, fetch and the Step -/

/-- A write changes the addressed byte only, and a read after it gives the byte written (R72); what memory reads as is all that
changes. -/
def Obligations.ByteReadAfterWrite : Prop :=
  ∀ (s : State) (a : Nat) (b : Byte), s.Inv → a < memSize →
    (∀ c, (s.writeByte a b).readByte c = if c = a then b else s.readByte c) ∧
    OnlyChanges [.mem] s (s.writeByte a b) ∧ (s.writeByte a b).Inv

/-- Memories that read the same are equal data: the canonical form of log 7, the model's choice. -/
def Obligations.MemoryFormCanonical : Prop :=
  ∀ s t : State, s.Inv → t.Inv → s.cfg = t.cfg → (∀ a, s.readByte a = t.readByte a) → s.mem = t.mem

/-- Where the control state is RUN, the fetch address is not 0xFFF, and the two bytes there, the first the high one, decode to `i`, a
Step is the execute phase of `i` at the state with PC advanced by 2 (R120, R121); the Step then uses up its input byte (log 2). -/
def Obligations.StepRunsDecodedInstruction : Prop :=
  ∀ (s : State) (i : Instr), s.waitKey = false → s.fetchAddr ≠ 0xFFF → decode s.nextWord = .ok i →
    s.nextWord.toNat = 256 * (s.readByte s.fetchAddr).toNat + (s.readByte (s.fetchAddr + 1)).toNat ∧
    s.fetchAddr = s.pc.toNat % 4096 ∧
    ∃ t, exec i (s.setPc (s.pc + 2)) = .next t ∧ step s = .next ((t.setRnd none).setDraws (t.draws + 1))

/-- A word placed with `withFetchWord` is the word the next Step fetches (log 6). -/
def Obligations.PlacedWordIsFetched : Prop :=
  ∀ (s : State) (nbits w : Nat), s.Inv →
    (s.withFetchWord nbits w).waitKey = false ∧ (s.withFetchWord nbits w).fetchAddr ≠ 0xFFF ∧
    (s.withFetchWord nbits w).nextWord = BitVec.ofNat 16 (w % 2 ^ nbits) ∧
    (s.fetchAddr ≠ 0xFFF → OnlyChanges [.mem, .waitKey] s (s.withFetchWord nbits w))

/-- R128, R231: a word that matches no row is reported with its value; PC has advanced by 2 and nothing else has changed (the
Step's input byte, the model's own, is used up). -/
def Obligations.UnknownOpcodeReported : Prop :=
  ∀ s : State, s.waitKey = false → s.fetchAddr ≠ 0xFFF → (∀ r ∈ opcodeMap, r.selects s.nextWord = false) →
    ∃ t, step s = .next t ∧ t.result = .unknownOpcode s.nextWord ∧ t.pc = s.pc + 2 ∧
      OnlyChanges [.pc, .result, .rnd, .draws] s t

/-- A fetch at 0xFFF gives FETCH_OOB(0x1000) and changes nothing, and so does every further Step (R66, R126, R234; decision D6). -/
def Obligations.FetchPastEndRepeats : Prop :=
  ∀ (s : State) (k : Nat), s.waitKey = false → s.fetchAddr = 0xFFF →
    ∃ t, Host.Core.run core (k + 1) s = .next t ∧ t.result = .fetchOob 0x1000 ∧
      OnlyChanges [.result, .rnd, .draws] s t

/-- The waiting Step (R125; decision D16): with a key down the lowest one goes to V[WAIT_X] and the wait ends, with none nothing
changes; PC stays and the result is OK. -/
def Obligations.WaitingStepSamplesKeys : Prop :=
  ∀ s : State, s.waitKey = true →
    ∃ t, step s = .next t ∧ t.result = .ok ∧
      (s.keys = 0 → OnlyChanges [.result, .rnd, .draws] s t) ∧
      (∀ k : Nat, k < 16 → s.keys.getLsbD k = true → (∀ j, j < k → s.keys.getLsbD j = false) →
        (t.readV s.waitX).toNat = k ∧ t.waitKey = false ∧ RegsKept [s.waitX] s t ∧
        OnlyChanges [.v, .waitKey, .result, .rnd, .draws] s t)

/-- R126: the two control states and how a Step leaves them; there is no halted state: every Step answers a next state. -/
def Obligations.ControlStates : Prop :=
  ∀ s : State, s.resetOp.waitKey = false ∧ ∃ t, step s = .next t ∧
    (s.waitKey = false →
      (t.waitKey = true ↔ s.fetchAddr ≠ 0xFFF ∧ s.keys = 0 ∧ ∃ x, decode s.nextWord = .ok (.ldVxK x))) ∧
    (s.waitKey = true → (t.waitKey = false ↔ ∃ k, k < 16 ∧ s.keys.getLsbD k = true)) ∧
    (s.waitKey = false → s.fetchAddr = 0xFFF →
      t.result = .fetchOob 0x1000 ∧ t.waitKey = false ∧ t.fetchAddr = 0xFFF ∧ OnlyChanges [.result, .rnd, .draws] s t)

/-! ### Control flow -/

/-- R141: JP sets PC to its 12-bit target and does nothing else. -/
def Obligations.JumpSetsPc : Prop :=
  ∀ (s : State) (nnn : Addr), EncodedAs (packNnn 0x1 nnn) (.jp nnn) ∧
    ∃ t, Completes (.jp nnn) s t ∧ t.pc.toNat = nnn.toNat ∧ OnlyChanges [.pc, .result] s t

/-- R142: CALL pushes the post-fetch PC and jumps; on a full stack it raises STACK_OVERFLOW, pushes nothing and does not jump. -/
def Obligations.CallPushesReturnAddress : Prop :=
  ∀ (s : State) (nnn : Addr), s.Inv → EncodedAs (packNnn 0x2 nnn) (.call nnn) ∧
    (s.sp < s.cfg.stackDepth →
      ∃ t, Completes (.call nnn) s t ∧ t.pc.toNat = nnn.toNat ∧ t.sp = s.sp + 1 ∧
        (∀ k, t.stackEntry k = if k = s.sp then s.pc else s.stackEntry k) ∧
        OnlyChanges [.pc, .sp, .stack, .result] s t) ∧
    (s.sp = s.cfg.stackDepth → Raises (.call nnn) s .stackOverflow)

/-- R140: RET pops the newest entry into PC, whole; on an empty stack it raises STACK_UNDERFLOW and changes nothing. -/
def Obligations.ReturnPopsIntoPc : Prop :=
  ∀ s : State, EncodedAs 0x00EE#16 .ret ∧
    (0 < s.sp → ∃ t, Completes .ret s t ∧ t.pc = s.stackEntry (s.sp - 1) ∧ t.sp = s.sp - 1 ∧
      OnlyChanges [.pc, .sp, .result] s t) ∧
    (s.sp = 0 → Raises .ret s .stackUnderflow)

/-- The execute phases of N nested calls and N returns, one after the other with no fetch between, restore the program counters in
reverse order, for N up to the room on the stack (R142; the source's call/return round trip, spec/95_test_vectors.md S10). -/
def Obligations.NestedCallsReturnInReverse : Prop :=
  ∀ (s : State) (outer inner : List Addr), s.Inv → s.sp + outer.length + inner.length ≤ s.cfg.stackDepth →
    ∃ p q r, execAll (outer.map Instr.call) s = .next p ∧ execAll (inner.map Instr.call) p = .next q ∧
      execAll (inner.map fun _ => Instr.ret) q = .next r ∧ r.pc = p.pc ∧ r.sp = p.sp ∧ p.sp = s.sp + outer.length

/-- R143 to R146: the four comparing skips add 2 to the post-fetch PC, modulo 65536, where the condition holds, and do nothing
else. -/
def Obligations.ComparingSkips : Prop :=
  ∀ (s : State) (x y : Reg) (kk : Byte),
    EncodedAs (packXkk 0x3 x kk) (.seImm x kk) ∧ EncodedAs (packXkk 0x4 x kk) (.sneImm x kk) ∧
    EncodedAs (pack 0x5 x y 0x0) (.seReg x y) ∧ EncodedAs (pack 0x9 x y 0x0) (.sneReg x y) ∧
    (∃ t, Completes (.seImm x kk) s t ∧ t.pc = (if s.readV x = kk then s.pc + 2 else s.pc) ∧
      OnlyChanges [.pc, .result] s t) ∧
    (∃ t, Completes (.sneImm x kk) s t ∧ t.pc = (if s.readV x ≠ kk then s.pc + 2 else s.pc) ∧
      OnlyChanges [.pc, .result] s t) ∧
    (∃ t, Completes (.seReg x y) s t ∧ t.pc = (if s.readV x = s.readV y then s.pc + 2 else s.pc) ∧
      OnlyChanges [.pc, .result] s t) ∧
    (∃ t, Completes (.sneReg x y) s t ∧ t.pc = (if s.readV x ≠ s.readV y then s.pc + 2 else s.pc) ∧
      OnlyChanges [.pc, .result] s t)

/-- A taken skip leaves PC at the address of the skip plus 4 and an untaken one plus 2, both modulo 65536 (R147, for the skips on
registers and on keys; the key index is decision D15). -/
def Obligations.SkipMovesPcByTwoOrFour : Prop :=
  ∀ (s : State) (i : Instr) (taken : Bool), s.waitKey = false → s.fetchAddr ≠ 0xFFF → decode s.nextWord = .ok i →
    skipCondition s i = some taken →
    ∃ t, step s = .next t ∧ t.result = .ok ∧
      t.pc.toNat = (s.pc.toNat + if taken then 4 else 2) % 65536 ∧ OnlyChanges [.pc, .result, .rnd, .draws] s t

/-- JP V0 sets PC to the 12-bit address plus V0, not reduced (R148; decisions D5, D13). -/
def Obligations.JumpWithOffset : Prop :=
  ∀ (s : State) (nnn : Addr), ∃ t, Completes (.jpV0 nnn) s t ∧ t.pc.toNat = nnn.toNat + (s.readV 0).toNat ∧
    OnlyChanges [.pc, .result] s t

/-! ### Load, arithmetic, logic, shift, random -/

/-- R161, R163: the loads set the target register to the immediate or to the other register, and nothing else changes. -/
def Obligations.LoadsCopyAByte : Prop :=
  ∀ (s : State) (x y : Reg) (kk : Byte),
    EncodedAs (packXkk 0x6 x kk) (.ldImm x kk) ∧ EncodedAs (pack 0x8 x y 0x0) (.ldReg x y) ∧
    (∃ t, Completes (.ldImm x kk) s t ∧ t.readV x = kk ∧ RegsKept [x] s t ∧ OnlyChanges [.v, .result] s t) ∧
    (∃ t, Completes (.ldReg x y) s t ∧ t.readV x = s.readV y ∧ RegsKept [x] s t ∧ OnlyChanges [.v, .result] s t)

/-- ADD Vx, kk is an 8-bit wrapping addition that writes no carry (R162; decision D11, general knowledge of the spec). -/
def Obligations.AddImmediateWraps : Prop :=
  ∀ (s : State) (x : Reg) (kk : Byte), ∃ t, Completes (.addImm x kk) s t ∧
    (t.readV x).toNat = ((s.readV x).toNat + kk.toNat) % 256 ∧ RegsKept [x] s t ∧ OnlyChanges [.v, .result] s t

/-- OR, AND and XOR combine the registers bit by bit and leave VF alone unless it is the destination (R164 to R166; decision D9). -/
def Obligations.LogicIsBitwise : Prop :=
  ∀ (s : State) (x y : Reg),
    (∃ t, Completes (.orReg x y) s t ∧
      (∀ k, k < 8 → (t.readV x).getLsbD k = ((s.readV x).getLsbD k || (s.readV y).getLsbD k)) ∧
      RegsKept [x] s t ∧ OnlyChanges [.v, .result] s t) ∧
    (∃ t, Completes (.andReg x y) s t ∧
      (∀ k, k < 8 → (t.readV x).getLsbD k = ((s.readV x).getLsbD k && (s.readV y).getLsbD k)) ∧
      RegsKept [x] s t ∧ OnlyChanges [.v, .result] s t) ∧
    (∃ t, Completes (.xorReg x y) s t ∧
      (∀ k, k < 8 → (t.readV x).getLsbD k = ((s.readV x).getLsbD k != (s.readV y).getLsbD k)) ∧
      RegsKept [x] s t ∧ OnlyChanges [.v, .result] s t)

/-- R167: ADD Vx, Vy leaves the sum modulo 256 in Vx and then the carry in VF, which is what VF ends as also where x = 15. -/
def Obligations.AddSetsCarry : Prop :=
  ∀ (s : State) (x y : Reg), EncodedAs (pack 0x8 x y 0x4) (.addReg x y) ∧
    ∃ t, Completes (.addReg x y) s t ∧
      (x ≠ 15 → (t.readV x).toNat = ((s.readV x).toNat + (s.readV y).toNat) % 256) ∧
      t.readV 15 = (if (s.readV x).toNat + (s.readV y).toNat > 255 then 1 else 0) ∧
      RegsKept [x, 15] s t ∧ OnlyChanges [.v, .result] s t

/-- R168: SUB Vx, Vy leaves Vx - Vy modulo 256 in Vx and then not-borrow in VF. -/
def Obligations.SubSetsNotBorrow : Prop :=
  ∀ (s : State) (x y : Reg), EncodedAs (pack 0x8 x y 0x5) (.subReg x y) ∧
    ∃ t, Completes (.subReg x y) s t ∧
      (x ≠ 15 → ((t.readV x).toNat : Int) = ((s.readV x).toNat - (s.readV y).toNat : Int) % 256) ∧
      t.readV 15 = (if (s.readV x).toNat ≥ (s.readV y).toNat then 1 else 0) ∧
      RegsKept [x, 15] s t ∧ OnlyChanges [.v, .result] s t

/-- SUBN Vx, Vy leaves Vy - Vx modulo 256 in Vx and then not-borrow in VF (R170; the operand order is the spec's general
knowledge, G3). -/
def Obligations.SubnSetsNotBorrow : Prop :=
  ∀ (s : State) (x y : Reg), ∃ t, Completes (.subn x y) s t ∧
    (x ≠ 15 → ((t.readV x).toNat : Int) = ((s.readV y).toNat - (s.readV x).toNat : Int) % 256) ∧
    t.readV 15 = (if (s.readV y).toNat ≥ (s.readV x).toNat then 1 else 0) ∧
    RegsKept [x, 15] s t ∧ OnlyChanges [.v, .result] s t

/-- SHR and SHL shift the source that SHIFT_SRC_VY chooses by one place, and then VF is the bit shifted out (R169, R171; decisions
D8, D10). -/
def Obligations.ShiftsByOne : Prop :=
  ∀ (s : State) (x y : Reg) (v : Byte), v = (if s.cfg.shiftSrcVy then s.readV y else s.readV x) →
    (∃ t, Completes (.shr x y) s t ∧ (x ≠ 15 → (t.readV x).toNat = v.toNat / 2) ∧
      (t.readV 15).toNat = v.toNat % 2 ∧ RegsKept [x, 15] s t ∧ OnlyChanges [.v, .result] s t) ∧
    (∃ t, Completes (.shl x y) s t ∧ (x ≠ 15 → (t.readV x).toNat = 2 * v.toNat % 256) ∧
      (t.readV 15).toNat = v.toNat / 128 ∧ RegsKept [x, 15] s t ∧ OnlyChanges [.v, .result] s t)

/-- RND leaves the Step's input byte under the mask kk in Vx, whatever that byte is (R173; decision D17); the result never has a
bit that kk lacks. Where the surroundings do not name the byte it is a free value (log 2). The operation Step(rnd) hands its byte to
an RND that it executes (R120). -/
def Obligations.RandomByteIsMasked : Prop :=
  (∀ (s : State) (x : Reg) (kk : Byte), ∃ t, Completes (.rnd x kk) s t ∧
    (∀ r, s.rnd = some r → t.readV x = r &&& kk) ∧
    (∀ k, (t.readV x).getLsbD k = true → kk.getLsbD k = true) ∧
    RegsKept [x] s t ∧ OnlyChanges [.v, .result] s t) ∧
  (∀ (s : State) (r : Byte) (x : Reg) (kk : Byte), s.waitKey = false → s.fetchAddr ≠ 0xFFF →
    decode s.nextWord = .ok (.rnd x kk) →
    ∃ t, (HostOp.step r).apply s = .next t ∧ t.result = .ok ∧ t.readV x = r &&& kk ∧ t.pc = s.pc + 2 ∧
      RegsKept [x] s t ∧ OnlyChanges [.v, .pc, .result, .rnd, .draws] s t)

/-! ### Index register and memory -/

/-- R180: LD I, nnn sets I to the zero-extended address. -/
def Obligations.LoadIndexSetsI : Prop :=
  ∀ (s : State) (nnn : Addr), EncodedAs (packNnn 0xA nnn) (.ldI nnn) ∧
    ∃ t, Completes (.ldI nnn) s t ∧ t.i.toNat = nnn.toNat ∧ OnlyChanges [.i, .result] s t

/-- ADD I, Vx accumulates modulo 65536 and writes no flag (R181; decision D12). -/
def Obligations.AddToIndexAccumulates : Prop :=
  ∀ (s : State) (x : Reg), ∃ t, Completes (.addI x) s t ∧
    t.i.toNat = (s.i.toNat + (s.readV x).toNat) % 65536 ∧ OnlyChanges [.i, .result] s t

/-- LD F, Vx sets I to FONT_BASE + 5 * Vx, on the whole register value (R182; FONT_BASE is the parameter of decision D3). -/
def Obligations.FontAddressIsBasePlusFive : Prop :=
  ∀ (s : State) (x : Reg), s.Inv → ∃ t, Completes (.ldF x) s t ∧
    t.i.toNat = s.cfg.fontBase + 5 * (s.readV x).toNat ∧ OnlyChanges [.i, .result] s t

/-- LD B, Vx stores hundreds, tens and ones at DataAddr(0) to DataAddr(2) and nothing else; past the end of memory it raises
DATA_OOB and stores nothing (R183; the addresses R67, decision D7). -/
def Obligations.DecimalDigitsStored : Prop :=
  ∀ (s : State) (x : Reg), s.Inv →
    (∀ k, s.dataAddr k = s.i.toNat % 4096 + k) ∧
    (s.dataAddr 2 ≤ 0xFFF →
      ∃ t, Completes (.ldB x) s t ∧
        (t.readByte (s.dataAddr 0)).toNat = (s.readV x).toNat / 100 ∧
        (t.readByte (s.dataAddr 1)).toNat = (s.readV x).toNat / 10 % 10 ∧
        (t.readByte (s.dataAddr 2)).toNat = (s.readV x).toNat % 10 ∧
        (∀ a, a < s.dataAddr 0 ∨ s.dataAddr 2 < a → t.readByte a = s.readByte a) ∧
        OnlyChanges [.mem, .result] s t) ∧
    (0xFFF < s.dataAddr 2 → Raises (.ldB x) s (.dataOob 0x1000))

/-- LD [I], Vx stores V0 to Vx at DataAddr(0) to DataAddr(x) and nothing else, I included; past the end of memory it raises DATA_OOB
and stores nothing (R184, R185; the addresses R67; decisions D7, D14). -/
def Obligations.BlockStoreWritesRegisters : Prop :=
  ∀ (s : State) (x : Reg), s.Inv →
    (∀ k, s.dataAddr k = s.i.toNat % 4096 + k) ∧
    (s.dataAddr x.toNat ≤ 0xFFF →
      ∃ t, Completes (.stRegs x) s t ∧
        (∀ r : Reg, r ≤ x → t.readByte (s.dataAddr r.toNat) = s.readV r) ∧
        (∀ a, a < s.dataAddr 0 ∨ s.dataAddr x.toNat < a → t.readByte a = s.readByte a) ∧
        OnlyChanges [.mem, .result] s t) ∧
    (0xFFF < s.dataAddr x.toNat → Raises (.stRegs x) s (.dataOob 0x1000))

/-- LD Vx, [I] loads V0 to Vx from DataAddr(0) to DataAddr(x) and changes nothing else, I included; past the end of memory it
raises DATA_OOB and loads nothing (R184, R186; the addresses R67; decisions D7, D14). -/
def Obligations.BlockLoadReadsRegisters : Prop :=
  ∀ (s : State) (x : Reg),
    (∀ k, s.dataAddr k = s.i.toNat % 4096 + k) ∧
    (s.dataAddr x.toNat ≤ 0xFFF →
      ∃ t, Completes (.ldRegs x) s t ∧
        (∀ r : Reg, t.readV r = if r ≤ x then s.readByte (s.dataAddr r.toNat) else s.readV r) ∧
        OnlyChanges [.v, .result] s t) ∧
    (0xFFF < s.dataAddr x.toNat → Raises (.ldRegs x) s (.dataOob 0x1000))

/-- A store is seen by the very next fetch: where a block store covers the two bytes at the post-fetch PC, the next word fetched is
made of the stored registers (R75; decision D24). -/
def Obligations.StoreSeenByNextFetch : Prop :=
  ∀ (s : State) (x r : Reg), s.Inv → s.dataAddr x.toNat ≤ 0xFFF → r < x → s.fetchAddr = s.dataAddr r.toNat →
    ∃ t, Completes (.stRegs x) s t ∧ t.nextWord.toNat = 256 * (s.readV r).toNat + (s.readV (r + 1)).toNat

/-! ### Display -/

/-- R200: CLS turns every pixel off and marks redraw, and changes nothing else. -/
def Obligations.ClearDisplayTurnsAllOff : Prop :=
  ∀ s : State, EncodedAs 0x00E0#16 .cls ∧
    ∃ t, Completes .cls s t ∧ (∀ k, t.pixel k = false) ∧ t.redraw = true ∧ OnlyChanges [.disp, .redraw, .result] s t

/-- DRW XORs the sprite into the display, clipped at the right and bottom edges, sets VF to the collision and marks redraw; where
a row it would read lies past 0xFFF it raises DATA_OOB and changes nothing (R201, R202 b and d, R67; decisions D7, D8, D25, D31).
A height n above 15, which no word has, is a count of rows like the others (the model's choice, log 8). -/
def Obligations.DrawXorsClippedSprite : Prop :=
  ∀ (s : State) (x y : Reg) (n : Nat),
    (∀ k, s.dataAddr k = s.i.toNat % 4096 + k) ∧
    s.spriteX x = (s.readV x).toNat % 64 ∧ s.spriteY y = (s.readV y).toNat % 32 ∧
    s.spriteRows y n = min n (32 - (s.readV y).toNat % 32) ∧
    (s.dataAddr (s.spriteRows y n) ≤ 0x1000 →
      ∃ t, Completes (.drw x y n) s t ∧
        (∀ px py, px < 64 → py < 32 →
          t.pixel (py * 64 + px) = (s.pixel (py * 64 + px) != s.spriteAt x y n px py)) ∧
        ((∃ px py, px < 64 ∧ py < 32 ∧ s.spriteAt x y n px py = true ∧ s.pixel (py * 64 + px) = true) →
          t.readV 15 = 1) ∧
        ((∀ px py, px < 64 → py < 32 → s.spriteAt x y n px py = true → s.pixel (py * 64 + px) = false) →
          t.readV 15 = 0) ∧
        t.redraw = true ∧ RegsKept [15] s t ∧ OnlyChanges [.v, .disp, .redraw, .result] s t) ∧
    (0x1000 < s.dataAddr (s.spriteRows y n) → Raises (.drw x y n) s (.dataOob 0x1000))

/-- Drawing the same sprite twice restores the display; on a display that was all off, VF after the second draw is 1 exactly
where the sprite has a visible bit (R202 g). It needs Vx and Vy unchanged, so neither is VF. A height n above 15, which no word has, is
a count of rows like the others (the model's choice, log 8). -/
def Obligations.DrawTwiceRestoresDisplay : Prop :=
  ∀ (s : State) (x y : Reg) (n : Nat), x ≠ 15 → y ≠ 15 → s.dataAddr (s.spriteRows y n) ≤ 0x1000 →
    ∃ t u, Completes (.drw x y n) s t ∧ Completes (.drw x y n) t u ∧
      (∀ px py, px < 64 → py < 32 → u.pixel (py * 64 + px) = s.pixel (py * 64 + px)) ∧
      ((∀ k, s.pixel k = false) →
        (u.readV 15 = 1 ↔ ∃ px py, px < 64 ∧ py < 32 ∧ s.spriteAt x y n px py = true))

/-! ### Keys and timers -/

/-- SKP and SKNP skip on the level of the key that the low four bits of Vx name (R210 to R212; decision D15). -/
def Obligations.KeySkipsSampleOneKey : Prop :=
  ∀ (s : State) (x : Reg) (k : Nat), k = (s.readV x).toNat % 16 →
    (∃ t, Completes (.skp x) s t ∧ t.pc = (if s.keys.getLsbD k = true then s.pc + 2 else s.pc) ∧
      OnlyChanges [.pc, .result] s t) ∧
    (∃ t, Completes (.sknp x) s t ∧ t.pc = (if s.keys.getLsbD k = false then s.pc + 2 else s.pc) ∧
      OnlyChanges [.pc, .result] s t)

/-- LD Vx, K stores the lowest key that is down, or with no key down enters the wait state for x (R213; decision D16). -/
def Obligations.KeyWaitCompletesOrWaits : Prop :=
  ∀ (s : State) (x : Reg),
    (∀ k : Nat, k < 16 → s.keys.getLsbD k = true → (∀ j, j < k → s.keys.getLsbD j = false) →
      ∃ t, Completes (.ldVxK x) s t ∧ (t.readV x).toNat = k ∧ RegsKept [x] s t ∧ OnlyChanges [.v, .result] s t) ∧
    (s.keys = 0 → ∃ t, Completes (.ldVxK x) s t ∧ t.waitKey = true ∧ t.waitX = x ∧
      OnlyChanges [.waitKey, .waitX, .result] s t)

/-- R214, R215, R216: the timer instructions copy a byte between Vx and a timer, and nothing else changes. -/
def Obligations.TimerInstructionsCopy : Prop :=
  ∀ (s : State) (x : Reg),
    EncodedAs (packXkk 0xF x 0x07) (.ldVxDt x) ∧ EncodedAs (packXkk 0xF x 0x15) (.ldDtVx x) ∧
    EncodedAs (packXkk 0xF x 0x18) (.ldStVx x) ∧
    (∃ t, Completes (.ldVxDt x) s t ∧ t.readV x = s.dt ∧ RegsKept [x] s t ∧ OnlyChanges [.v, .result] s t) ∧
    (∃ t, Completes (.ldDtVx x) s t ∧ t.dt = s.readV x ∧ OnlyChanges [.dt, .result] s t) ∧
    (∃ t, Completes (.ldStVx x) s t ∧ t.st = s.readV x ∧ OnlyChanges [.st, .result] s t)

/-- R130: TimerTick decrements both timers toward zero, never below, and changes nothing else, in both control states. -/
def Obligations.TimerTickCountsDown : Prop :=
  ∀ s : State, ∃ t, HostOp.timerTick.apply s = .next t ∧
    (s.dt = 0 → t.dt = 0) ∧ (s.dt ≠ 0 → t.dt.toNat + 1 = s.dt.toNat) ∧
    (s.st = 0 → t.st = 0) ∧ (s.st ≠ 0 → t.st.toNat + 1 = s.st.toNat) ∧ OnlyChanges [.dt, .st] s t

/-- R26: ST is written by LD ST, Vx, by no other Step, and decremented by TimerTick as DT is; no instruction reads it: a Step from two
states that differ in ST only gives two states that differ in ST at most. -/
def Obligations.SoundTimerIsNeverRead : Prop :=
  (∀ (s : State) (x : Reg), ∃ t, Completes (.ldStVx x) s t ∧ t.st = s.readV x) ∧
  (∀ s : State, (s.st = 0 → s.timerTick.st = 0) ∧ (s.st ≠ 0 → s.timerTick.st.toNat + 1 = s.st.toNat) ∧
    (s.dt = s.st → s.timerTick.dt = s.timerTick.st)) ∧
  (∀ s : State, (s.waitKey = false → s.fetchAddr ≠ 0xFFF → ∀ x, decode s.nextWord ≠ .ok (.ldStVx x)) →
    ∃ t, step s = .next t ∧ t.st = s.st) ∧
  (∀ (s : State) (b : Byte), ∃ t u, step s = .next t ∧ step (s.setSt b) = .next u ∧ u.setSt t.st = t)

/-! ### The other operations -/

/-- SetKeys replaces the 16 key bits and ClearRedraw sets REDRAW to 0, and neither changes anything else (R132; decisions D31,
D33). -/
def Obligations.KeyWriteAndRedrawClear : Prop :=
  ∀ (s : State) (k : BitVec 16),
    (∃ t, (HostOp.setKeys k).apply s = .next t ∧ (∀ j, j < 16 → t.keys.getLsbD j = k.getLsbD j) ∧
      OnlyChanges [.keys] s t) ∧
    (∃ t, HostOp.clearRedraw.apply s = .next t ∧ t.redraw = false ∧ OnlyChanges [.redraw] s t)

/-- LoadProgram copies at most 3584 bytes to 0x200 and up and changes no other byte; a longer sequence is rejected whole (R71, R236;
decision D27). -/
def Obligations.LoadProgramCopiesOrRejects : Prop :=
  ∀ (s : State) (bytes : List Byte), s.Inv → ∃ t, (HostOp.loadProgram bytes).apply s = .next t ∧
    (bytes.length ≤ 3584 → t.result = .ok ∧ OnlyChanges [.mem, .result] s t ∧
      ∀ a, t.readByte a =
        if 0x200 ≤ a ∧ a < 0x200 + bytes.length then bytes.getD (a - 0x200) 0 else s.readByte a) ∧
    (3584 < bytes.length → t = s.setResult .programTooLarge)

/-- Reset: memory zero but for the font, PC 0x0200, SP 0 (R36, R260, the source's); V, I, DT, ST, DISP, REDRAW, KEYS and WAIT_KEY zero
(decision D18); the parameters stay. Reset of the reset state agrees with it in every piece but the stack entries and
WAIT_X, which R36 leaves unspecified, and the model's own rnd, draws and result. The reset state has the default parameters
(decisions D2, D3, D4, D10; log 3). -/
def Obligations.ResetValues : Prop :=
  (∀ s : State, ∃ t, HostOp.reset.apply s = .next t ∧
    (∀ a, t.readByte a = if s.cfg.fontBase ≤ a ∧ a < s.cfg.fontBase + 80
      then s.cfg.fontData.getD (a - s.cfg.fontBase) 0 else 0) ∧
    t.pc = 0x0200 ∧ t.sp = 0 ∧ (∀ r, t.readV r = 0) ∧ t.i = 0 ∧ t.dt = 0 ∧ t.st = 0 ∧ (∀ k, t.pixel k = false) ∧
    t.redraw = false ∧ t.keys = 0 ∧ t.waitKey = false ∧ t.cfg = s.cfg) ∧
  OnlyChanges [.stack, .waitX, .rnd, .draws, .result] State.reset State.reset.resetOp ∧
  State.reset.cfg.stackDepth = 16 ∧ State.reset.cfg.fontBase = 0 ∧ State.reset.cfg.fontData = fontTable ∧
  State.reset.cfg.shiftSrcVy = false

/-! ### Rules about the whole machine -/

/-- The state invariants of R37, legal parameters and canonical memory hold after Reset, for every legal choice of the
parameters. -/
def Obligations.InvariantHoldsAtReset : Prop :=
  State.reset.Inv ∧ ∀ s : State, s.cfg.Legal → s.resetOp.Inv

/-- Every Step keeps the state invariants of R37, legal parameters and canonical memory, from every state that meets them. -/
def Obligations.InvariantKeptByStep : Prop :=
  ∀ s t : State, s.Inv → step s = .next t → t.Inv ∧ t.cfg = s.cfg ∧ t.keys = s.keys ∧ t.stack.length = s.stack.length

/-- Every interleaving of the operations of the surroundings runs to a next state that meets the invariants (R37, R131). -/
def Obligations.InvariantKeptByInterleavings : Prop :=
  ∀ (ops : List HostOp) (s : State), s.Inv → ∃ t, HostOp.run ops s = .next t ∧ t.Inv ∧ t.cfg = s.cfg

/-- No instruction writes a piece of the state but those its rule and the Step column of R38 name; DISP only CLS and DRW, MEM only LD B
and LD [I], STACK only CALL, I only LD I, ADD I and LD F; no instruction writes KEYS. -/
def Obligations.InstructionsWriteOnlyTheirParts : Prop :=
  ∀ (i : Instr) (s : State), ∃ t, exec i s = .next t ∧ OnlyChanges (writtenParts i) s t

/-- No instruction writes a general register but its destination; VF as a flag only ADD, SUB, SUBN, SHR, SHL Vx,Vy and DRW (R22, R172;
decisions D8, D9, D11, D12). -/
def Obligations.InstructionsWriteOnlyTheirRegisters : Prop :=
  ∀ (i : Instr) (s : State), ∃ t, exec i s = .next t ∧ RegsKept (writtenRegs i) s t

/-- An error is precise: an instruction ends with the result OK, or with the one error it can raise and then it has changed nothing
(R237, R241, R242; decisions D19, D20). -/
def Obligations.ErrorsArePrecise : Prop :=
  ∀ (i : Instr) (s : State), ∃ t, exec i s = .next t ∧
    (t.result = .ok ∨ (raisable i = some t.result ∧ t = s.setResult t.result))

/-- No result is latched: what a Step does is independent of the result of the operation before it (R35, R124; decision D19). -/
def Obligations.ResultIsNotLatched : Prop :=
  ∀ (s : State) (r : Result), step (s.setResult r) = step s

/-- No instruction reads REDRAW: a Step from two states that differ in REDRAW only gives two states that differ in REDRAW at most,
and no Step clears it (R31, R204; decision D31). -/
def Obligations.RedrawIsNeverRead : Prop :=
  ∀ (s : State) (b : Bool), ∃ t u, step s = .next t ∧ step (s.setRedraw b) = .next u ∧ u.setRedraw t.redraw = t ∧
    (s.redraw = true → t.redraw = true)

/-- R28: an entry at an index at or above SP is never read: a Step from two states that differ in such entries only gives two states that
differ in such entries only. -/
def Obligations.VacatedStackEntriesAreNeverRead : Prop :=
  ∀ (s : State) (l : List Word), l.length = s.stack.length → (∀ k, k < s.sp → l.getD k 0 = s.stackEntry k) → s.Inv →
    ∃ t u, step s = .next t ∧ step (s.setStack l) = .next u ∧ u.setStack t.stack = t ∧
      ∀ k, k < t.sp → u.stackEntry k = t.stackEntry k

/-- A program that never transfers to an odd address keeps PC even: a Step from an even PC ends at an even PC unless it returns,
jumps or calls to an odd address; a RET or a CALL that raises its error transfers nowhere (R65; decision D32). -/
def Obligations.EvenPcKeptWithoutOddTransfer : Prop :=
  ∀ s t : State, step s = .next t → s.pc.toNat % 2 = 0 →
    (s.waitKey = false → decode s.nextWord = .ok .ret → 0 < s.sp → (s.stackEntry (s.sp - 1)).toNat % 2 = 0) →
    (∀ nnn : Addr, s.waitKey = false → decode s.nextWord = .ok (.jp nnn) → nnn.toNat % 2 = 0) →
    (∀ nnn : Addr, s.waitKey = false → decode s.nextWord = .ok (.call nnn) → s.sp < s.cfg.stackDepth →
      nnn.toNat % 2 = 0) →
    (∀ nnn : Addr, s.waitKey = false → decode s.nextWord = .ok (.jpV0 nnn) → (nnn.toNat + (s.readV 0).toNat) % 2 = 0) →
    t.pc.toNat % 2 = 0
end

