-- ==== Sys2Proof/Laws/Decode.lean ====
section
/-! SUPPORT. The field laws: the value of each field and of each packed word, the fields of a packed word, a word as the pack of its
fields, and the masks of the opcode map as packs (R91, R92, R95). -/

namespace Sys2Proof

variable (op x y n : BitVec 4) (kk hi lo : Byte) (nnn : Addr) (w : Word)

/-! ### Values -/

theorem pack_toNat :
    (pack op x y n).toNat = op.toNat * 4096 + x.toNat * 256 + y.toNat * 16 + n.toNat := by
  simp only [pack, BitVec.toNat_append]
  rw [← Nat.shiftLeft_add_eq_or_of_lt n.isLt, ← Nat.shiftLeft_add_eq_or_of_lt y.isLt,
    ← Nat.shiftLeft_add_eq_or_of_lt x.isLt]
  simp only [Nat.shiftLeft_eq]; omega

theorem packXkk_toNat : (packXkk op x kk).toNat = op.toNat * 4096 + x.toNat * 256 + kk.toNat := by
  simp only [packXkk, BitVec.toNat_append]
  rw [← Nat.shiftLeft_add_eq_or_of_lt kk.isLt, ← Nat.shiftLeft_add_eq_or_of_lt x.isLt]
  simp only [Nat.shiftLeft_eq]; omega

theorem packNnn_toNat : (packNnn op nnn).toNat = op.toNat * 4096 + nnn.toNat := by
  simp only [packNnn, BitVec.toNat_append]
  rw [← Nat.shiftLeft_add_eq_or_of_lt nnn.isLt]
  simp only [Nat.shiftLeft_eq]

theorem wordOfBytes_toNat : (wordOfBytes hi lo).toNat = hi.toNat * 256 + lo.toNat := by
  simp only [wordOfBytes, BitVec.toNat_append]
  rw [← Nat.shiftLeft_add_eq_or_of_lt lo.isLt]
  simp only [Nat.shiftLeft_eq]

theorem fieldOp_toNat : (fieldOp w).toNat = w.toNat / 4096 := by
  simp [fieldOp, Nat.shiftRight_eq_div_pow]; omega

theorem fieldX_toNat : (fieldX w).toNat = w.toNat / 256 % 16 := by
  simp [fieldX, Nat.shiftRight_eq_div_pow]

theorem fieldY_toNat : (fieldY w).toNat = w.toNat / 16 % 16 := by
  simp [fieldY, Nat.shiftRight_eq_div_pow]

theorem fieldN_toNat : (fieldN w).toNat = w.toNat % 16 := by
  simp [fieldN]

theorem fieldKk_toNat : (fieldKk w).toNat = w.toNat % 256 := by
  simp [fieldKk]

theorem fieldNnn_toNat : (fieldNnn w).toNat = w.toNat % 4096 := by
  simp [fieldNnn]

theorem hiByte_toNat : (hiByte w).toNat = w.toNat / 256 := by
  simp [hiByte, Nat.shiftRight_eq_div_pow]; omega

theorem loByte_toNat : (loByte w).toNat = w.toNat % 256 := by
  simp [loByte]

/-! ### The fields of packed words -/

@[simp] theorem fieldOp_pack : fieldOp (pack op x y n) = op := by
  apply BitVec.eq_of_toNat_eq; rw [fieldOp_toNat, pack_toNat]; omega

@[simp] theorem fieldX_pack : fieldX (pack op x y n) = x := by
  apply BitVec.eq_of_toNat_eq; rw [fieldX_toNat, pack_toNat]; omega

@[simp] theorem fieldY_pack : fieldY (pack op x y n) = y := by
  apply BitVec.eq_of_toNat_eq; rw [fieldY_toNat, pack_toNat]; omega

@[simp] theorem fieldN_pack : fieldN (pack op x y n) = n := by
  apply BitVec.eq_of_toNat_eq; rw [fieldN_toNat, pack_toNat]; omega

@[simp] theorem fieldOp_packXkk : fieldOp (packXkk op x kk) = op := by
  apply BitVec.eq_of_toNat_eq; rw [fieldOp_toNat, packXkk_toNat]; omega

@[simp] theorem fieldX_packXkk : fieldX (packXkk op x kk) = x := by
  apply BitVec.eq_of_toNat_eq; rw [fieldX_toNat, packXkk_toNat]; omega

@[simp] theorem fieldKk_packXkk : fieldKk (packXkk op x kk) = kk := by
  apply BitVec.eq_of_toNat_eq; rw [fieldKk_toNat, packXkk_toNat]; omega

@[simp] theorem fieldOp_packNnn : fieldOp (packNnn op nnn) = op := by
  apply BitVec.eq_of_toNat_eq; rw [fieldOp_toNat, packNnn_toNat]; omega

@[simp] theorem fieldNnn_packNnn : fieldNnn (packNnn op nnn) = nnn := by
  apply BitVec.eq_of_toNat_eq; rw [fieldNnn_toNat, packNnn_toNat]; omega

@[simp] theorem hiByte_wordOfBytes : hiByte (wordOfBytes hi lo) = hi := by
  apply BitVec.eq_of_toNat_eq; rw [hiByte_toNat, wordOfBytes_toNat]; omega

@[simp] theorem loByte_wordOfBytes : loByte (wordOfBytes hi lo) = lo := by
  apply BitVec.eq_of_toNat_eq; rw [loByte_toNat, wordOfBytes_toNat]; omega

/-! ### A word is the pack of its fields -/

theorem pack_fields : pack (fieldOp w) (fieldX w) (fieldY w) (fieldN w) = w := by
  apply BitVec.eq_of_toNat_eq
  rw [pack_toNat, fieldOp_toNat, fieldX_toNat, fieldY_toNat, fieldN_toNat]; omega

theorem packXkk_fields : packXkk (fieldOp w) (fieldX w) (fieldKk w) = w := by
  apply BitVec.eq_of_toNat_eq; rw [packXkk_toNat, fieldOp_toNat, fieldX_toNat, fieldKk_toNat]; omega

theorem packNnn_fields : packNnn (fieldOp w) (fieldNnn w) = w := by
  apply BitVec.eq_of_toNat_eq; rw [packNnn_toNat, fieldOp_toNat, fieldNnn_toNat]; omega

@[simp] theorem wordOfBytes_bytes : wordOfBytes (hiByte w) (loByte w) = w := by
  apply BitVec.eq_of_toNat_eq; rw [wordOfBytes_toNat, hiByte_toNat, loByte_toNat]; omega

/-! ### The masks of the opcode map -/

theorem pack_and_pack (op' x' y' n' : BitVec 4) :
    pack op x y n &&& pack op' x' y' n' = pack (op &&& op') (x &&& x') (y &&& y') (n &&& n') := by
  exact BitVec.and_append.trans (congrArg (· ++ (n &&& n')) (BitVec.and_append.trans
    (congrArg (· ++ (y &&& y')) BitVec.and_append)))

theorem packXkk_and_packXkk (op' x' : BitVec 4) (kk' : Byte) :
    packXkk op x kk &&& packXkk op' x' kk' = packXkk (op &&& op') (x &&& x') (kk &&& kk') := by
  exact BitVec.and_append.trans (congrArg (· ++ (kk &&& kk')) BitVec.and_append)

theorem and_F (a : BitVec 4) : a &&& 0xF#4 = a := BitVec.and_allOnes

theorem and_FF (a : Byte) : a &&& 0xFF#8 = a := BitVec.and_allOnes

theorem and_maskOp : w &&& 0xF000#16 = pack (fieldOp w) 0 0 0 := by
  have h : (0xF000#16) = pack 0xF#4 0#4 0#4 0#4 := by decide
  conv_lhs => rw [← pack_fields w, h, pack_and_pack, and_F]
  simp only [BitVec.and_zero, BitVec.ofNat_eq_ofNat]

theorem and_maskOpN : w &&& 0xF00F#16 = pack (fieldOp w) 0 0 (fieldN w) := by
  have h : (0xF00F#16) = pack 0xF#4 0#4 0#4 0xF#4 := by decide
  conv_lhs => rw [← pack_fields w, h, pack_and_pack, and_F, and_F]
  simp only [BitVec.and_zero, BitVec.ofNat_eq_ofNat]

theorem and_maskOpKk : w &&& 0xF0FF#16 = packXkk (fieldOp w) 0 (fieldKk w) := by
  have h : (0xF0FF#16) = packXkk 0xF#4 0#4 0xFF#8 := by decide
  conv_lhs => rw [← packXkk_fields w, h, packXkk_and_packXkk, and_F, and_FF]
  simp only [BitVec.and_zero, BitVec.ofNat_eq_ofNat]

theorem and_maskAll : w &&& 0xFFFF#16 = w := BitVec.and_allOnes

end Sys2Proof
end

