-- ==== Sys2Proof/Laws/State.lean ====
section
/-! SUPPORT. The state laws: what each field update leaves in each field, and what each accessor reads after it. All hold by
`rfl`; they are here so that no later proof unfolds a record update. -/

namespace Sys2Proof.Machine.State

variable (s : State)

/-! ### `setI` -/

@[simp] theorem setI_v (w : Word) : (s.setI w).v = s.v := rfl
@[simp] theorem setI_i (w : Word) : (s.setI w).i = w := rfl
@[simp] theorem setI_pc (w : Word) : (s.setI w).pc = s.pc := rfl
@[simp] theorem setI_dt (w : Word) : (s.setI w).dt = s.dt := rfl
@[simp] theorem setI_st (w : Word) : (s.setI w).st = s.st := rfl
@[simp] theorem setI_stack (w : Word) : (s.setI w).stack = s.stack := rfl
@[simp] theorem setI_sp (w : Word) : (s.setI w).sp = s.sp := rfl
@[simp] theorem setI_mem (w : Word) : (s.setI w).mem = s.mem := rfl
@[simp] theorem setI_disp (w : Word) : (s.setI w).disp = s.disp := rfl
@[simp] theorem setI_redraw (w : Word) : (s.setI w).redraw = s.redraw := rfl
@[simp] theorem setI_keys (w : Word) : (s.setI w).keys = s.keys := rfl
@[simp] theorem setI_waitKey (w : Word) : (s.setI w).waitKey = s.waitKey := rfl
@[simp] theorem setI_waitX (w : Word) : (s.setI w).waitX = s.waitX := rfl
@[simp] theorem setI_cfg (w : Word) : (s.setI w).cfg = s.cfg := rfl
@[simp] theorem setI_rnd (w : Word) : (s.setI w).rnd = s.rnd := rfl
@[simp] theorem setI_draws (w : Word) : (s.setI w).draws = s.draws := rfl
@[simp] theorem setI_result (w : Word) : (s.setI w).result = s.result := rfl
@[simp] theorem setI_readV (w : Word) (z : Reg) : (s.setI w).readV z = s.readV z := rfl
@[simp] theorem setI_readByte (w : Word) (a : Nat) : (s.setI w).readByte a = s.readByte a := rfl
@[simp] theorem setI_stackEntry (w : Word) (j : Nat) : (s.setI w).stackEntry j = s.stackEntry j := rfl
@[simp] theorem setI_pixel (w : Word) (j : Nat) : (s.setI w).pixel j = s.pixel j := rfl
@[simp] theorem setI_rndByte (w : Word) : (s.setI w).rndByte = s.rndByte := rfl
@[simp] theorem setI_fetchAddr (w : Word) : (s.setI w).fetchAddr = s.fetchAddr := rfl

/-! ### `setPc` -/

@[simp] theorem setPc_v (w : Word) : (s.setPc w).v = s.v := rfl
@[simp] theorem setPc_i (w : Word) : (s.setPc w).i = s.i := rfl
@[simp] theorem setPc_pc (w : Word) : (s.setPc w).pc = w := rfl
@[simp] theorem setPc_dt (w : Word) : (s.setPc w).dt = s.dt := rfl
@[simp] theorem setPc_st (w : Word) : (s.setPc w).st = s.st := rfl
@[simp] theorem setPc_stack (w : Word) : (s.setPc w).stack = s.stack := rfl
@[simp] theorem setPc_sp (w : Word) : (s.setPc w).sp = s.sp := rfl
@[simp] theorem setPc_mem (w : Word) : (s.setPc w).mem = s.mem := rfl
@[simp] theorem setPc_disp (w : Word) : (s.setPc w).disp = s.disp := rfl
@[simp] theorem setPc_redraw (w : Word) : (s.setPc w).redraw = s.redraw := rfl
@[simp] theorem setPc_keys (w : Word) : (s.setPc w).keys = s.keys := rfl
@[simp] theorem setPc_waitKey (w : Word) : (s.setPc w).waitKey = s.waitKey := rfl
@[simp] theorem setPc_waitX (w : Word) : (s.setPc w).waitX = s.waitX := rfl
@[simp] theorem setPc_cfg (w : Word) : (s.setPc w).cfg = s.cfg := rfl
@[simp] theorem setPc_rnd (w : Word) : (s.setPc w).rnd = s.rnd := rfl
@[simp] theorem setPc_draws (w : Word) : (s.setPc w).draws = s.draws := rfl
@[simp] theorem setPc_result (w : Word) : (s.setPc w).result = s.result := rfl
@[simp] theorem setPc_readV (w : Word) (z : Reg) : (s.setPc w).readV z = s.readV z := rfl
@[simp] theorem setPc_readByte (w : Word) (a : Nat) : (s.setPc w).readByte a = s.readByte a := rfl
@[simp] theorem setPc_stackEntry (w : Word) (j : Nat) : (s.setPc w).stackEntry j = s.stackEntry j := rfl
@[simp] theorem setPc_pixel (w : Word) (j : Nat) : (s.setPc w).pixel j = s.pixel j := rfl
@[simp] theorem setPc_rndByte (w : Word) : (s.setPc w).rndByte = s.rndByte := rfl
@[simp] theorem setPc_dataAddr (w : Word) (j : Nat) : (s.setPc w).dataAddr j = s.dataAddr j := rfl

/-! ### `setDt` -/

@[simp] theorem setDt_v (b : Byte) : (s.setDt b).v = s.v := rfl
@[simp] theorem setDt_i (b : Byte) : (s.setDt b).i = s.i := rfl
@[simp] theorem setDt_pc (b : Byte) : (s.setDt b).pc = s.pc := rfl
@[simp] theorem setDt_dt (b : Byte) : (s.setDt b).dt = b := rfl
@[simp] theorem setDt_st (b : Byte) : (s.setDt b).st = s.st := rfl
@[simp] theorem setDt_stack (b : Byte) : (s.setDt b).stack = s.stack := rfl
@[simp] theorem setDt_sp (b : Byte) : (s.setDt b).sp = s.sp := rfl
@[simp] theorem setDt_mem (b : Byte) : (s.setDt b).mem = s.mem := rfl
@[simp] theorem setDt_disp (b : Byte) : (s.setDt b).disp = s.disp := rfl
@[simp] theorem setDt_redraw (b : Byte) : (s.setDt b).redraw = s.redraw := rfl
@[simp] theorem setDt_keys (b : Byte) : (s.setDt b).keys = s.keys := rfl
@[simp] theorem setDt_waitKey (b : Byte) : (s.setDt b).waitKey = s.waitKey := rfl
@[simp] theorem setDt_waitX (b : Byte) : (s.setDt b).waitX = s.waitX := rfl
@[simp] theorem setDt_cfg (b : Byte) : (s.setDt b).cfg = s.cfg := rfl
@[simp] theorem setDt_rnd (b : Byte) : (s.setDt b).rnd = s.rnd := rfl
@[simp] theorem setDt_draws (b : Byte) : (s.setDt b).draws = s.draws := rfl
@[simp] theorem setDt_result (b : Byte) : (s.setDt b).result = s.result := rfl
@[simp] theorem setDt_readV (b : Byte) (z : Reg) : (s.setDt b).readV z = s.readV z := rfl
@[simp] theorem setDt_readByte (b : Byte) (a : Nat) : (s.setDt b).readByte a = s.readByte a := rfl
@[simp] theorem setDt_stackEntry (b : Byte) (j : Nat) : (s.setDt b).stackEntry j = s.stackEntry j := rfl
@[simp] theorem setDt_pixel (b : Byte) (j : Nat) : (s.setDt b).pixel j = s.pixel j := rfl
@[simp] theorem setDt_rndByte (b : Byte) : (s.setDt b).rndByte = s.rndByte := rfl
@[simp] theorem setDt_dataAddr (b : Byte) (j : Nat) : (s.setDt b).dataAddr j = s.dataAddr j := rfl
@[simp] theorem setDt_fetchAddr (b : Byte) : (s.setDt b).fetchAddr = s.fetchAddr := rfl

/-! ### `setSt` -/

@[simp] theorem setSt_v (b : Byte) : (s.setSt b).v = s.v := rfl
@[simp] theorem setSt_i (b : Byte) : (s.setSt b).i = s.i := rfl
@[simp] theorem setSt_pc (b : Byte) : (s.setSt b).pc = s.pc := rfl
@[simp] theorem setSt_dt (b : Byte) : (s.setSt b).dt = s.dt := rfl
@[simp] theorem setSt_st (b : Byte) : (s.setSt b).st = b := rfl
@[simp] theorem setSt_stack (b : Byte) : (s.setSt b).stack = s.stack := rfl
@[simp] theorem setSt_sp (b : Byte) : (s.setSt b).sp = s.sp := rfl
@[simp] theorem setSt_mem (b : Byte) : (s.setSt b).mem = s.mem := rfl
@[simp] theorem setSt_disp (b : Byte) : (s.setSt b).disp = s.disp := rfl
@[simp] theorem setSt_redraw (b : Byte) : (s.setSt b).redraw = s.redraw := rfl
@[simp] theorem setSt_keys (b : Byte) : (s.setSt b).keys = s.keys := rfl
@[simp] theorem setSt_waitKey (b : Byte) : (s.setSt b).waitKey = s.waitKey := rfl
@[simp] theorem setSt_waitX (b : Byte) : (s.setSt b).waitX = s.waitX := rfl
@[simp] theorem setSt_cfg (b : Byte) : (s.setSt b).cfg = s.cfg := rfl
@[simp] theorem setSt_rnd (b : Byte) : (s.setSt b).rnd = s.rnd := rfl
@[simp] theorem setSt_draws (b : Byte) : (s.setSt b).draws = s.draws := rfl
@[simp] theorem setSt_result (b : Byte) : (s.setSt b).result = s.result := rfl
@[simp] theorem setSt_readV (b : Byte) (z : Reg) : (s.setSt b).readV z = s.readV z := rfl
@[simp] theorem setSt_readByte (b : Byte) (a : Nat) : (s.setSt b).readByte a = s.readByte a := rfl
@[simp] theorem setSt_stackEntry (b : Byte) (j : Nat) : (s.setSt b).stackEntry j = s.stackEntry j := rfl
@[simp] theorem setSt_pixel (b : Byte) (j : Nat) : (s.setSt b).pixel j = s.pixel j := rfl
@[simp] theorem setSt_rndByte (b : Byte) : (s.setSt b).rndByte = s.rndByte := rfl
@[simp] theorem setSt_dataAddr (b : Byte) (j : Nat) : (s.setSt b).dataAddr j = s.dataAddr j := rfl
@[simp] theorem setSt_fetchAddr (b : Byte) : (s.setSt b).fetchAddr = s.fetchAddr := rfl

/-! ### `setSp` -/

@[simp] theorem setSp_v (n : Nat) : (s.setSp n).v = s.v := rfl
@[simp] theorem setSp_i (n : Nat) : (s.setSp n).i = s.i := rfl
@[simp] theorem setSp_pc (n : Nat) : (s.setSp n).pc = s.pc := rfl
@[simp] theorem setSp_dt (n : Nat) : (s.setSp n).dt = s.dt := rfl
@[simp] theorem setSp_st (n : Nat) : (s.setSp n).st = s.st := rfl
@[simp] theorem setSp_stack (n : Nat) : (s.setSp n).stack = s.stack := rfl
@[simp] theorem setSp_sp (n : Nat) : (s.setSp n).sp = n := rfl
@[simp] theorem setSp_mem (n : Nat) : (s.setSp n).mem = s.mem := rfl
@[simp] theorem setSp_disp (n : Nat) : (s.setSp n).disp = s.disp := rfl
@[simp] theorem setSp_redraw (n : Nat) : (s.setSp n).redraw = s.redraw := rfl
@[simp] theorem setSp_keys (n : Nat) : (s.setSp n).keys = s.keys := rfl
@[simp] theorem setSp_waitKey (n : Nat) : (s.setSp n).waitKey = s.waitKey := rfl
@[simp] theorem setSp_waitX (n : Nat) : (s.setSp n).waitX = s.waitX := rfl
@[simp] theorem setSp_cfg (n : Nat) : (s.setSp n).cfg = s.cfg := rfl
@[simp] theorem setSp_rnd (n : Nat) : (s.setSp n).rnd = s.rnd := rfl
@[simp] theorem setSp_draws (n : Nat) : (s.setSp n).draws = s.draws := rfl
@[simp] theorem setSp_result (n : Nat) : (s.setSp n).result = s.result := rfl
@[simp] theorem setSp_readV (n : Nat) (z : Reg) : (s.setSp n).readV z = s.readV z := rfl
@[simp] theorem setSp_readByte (n : Nat) (a : Nat) : (s.setSp n).readByte a = s.readByte a := rfl
@[simp] theorem setSp_stackEntry (n : Nat) (j : Nat) : (s.setSp n).stackEntry j = s.stackEntry j := rfl
@[simp] theorem setSp_pixel (n : Nat) (j : Nat) : (s.setSp n).pixel j = s.pixel j := rfl
@[simp] theorem setSp_rndByte (n : Nat) : (s.setSp n).rndByte = s.rndByte := rfl
@[simp] theorem setSp_dataAddr (n : Nat) (j : Nat) : (s.setSp n).dataAddr j = s.dataAddr j := rfl
@[simp] theorem setSp_fetchAddr (n : Nat) : (s.setSp n).fetchAddr = s.fetchAddr := rfl

/-! ### `setStack` -/

@[simp] theorem setStack_v (l : List Word) : (s.setStack l).v = s.v := rfl
@[simp] theorem setStack_i (l : List Word) : (s.setStack l).i = s.i := rfl
@[simp] theorem setStack_pc (l : List Word) : (s.setStack l).pc = s.pc := rfl
@[simp] theorem setStack_dt (l : List Word) : (s.setStack l).dt = s.dt := rfl
@[simp] theorem setStack_st (l : List Word) : (s.setStack l).st = s.st := rfl
@[simp] theorem setStack_stack (l : List Word) : (s.setStack l).stack = l := rfl
@[simp] theorem setStack_sp (l : List Word) : (s.setStack l).sp = s.sp := rfl
@[simp] theorem setStack_mem (l : List Word) : (s.setStack l).mem = s.mem := rfl
@[simp] theorem setStack_disp (l : List Word) : (s.setStack l).disp = s.disp := rfl
@[simp] theorem setStack_redraw (l : List Word) : (s.setStack l).redraw = s.redraw := rfl
@[simp] theorem setStack_keys (l : List Word) : (s.setStack l).keys = s.keys := rfl
@[simp] theorem setStack_waitKey (l : List Word) : (s.setStack l).waitKey = s.waitKey := rfl
@[simp] theorem setStack_waitX (l : List Word) : (s.setStack l).waitX = s.waitX := rfl
@[simp] theorem setStack_cfg (l : List Word) : (s.setStack l).cfg = s.cfg := rfl
@[simp] theorem setStack_rnd (l : List Word) : (s.setStack l).rnd = s.rnd := rfl
@[simp] theorem setStack_draws (l : List Word) : (s.setStack l).draws = s.draws := rfl
@[simp] theorem setStack_result (l : List Word) : (s.setStack l).result = s.result := rfl
@[simp] theorem setStack_readV (l : List Word) (z : Reg) : (s.setStack l).readV z = s.readV z := rfl
@[simp] theorem setStack_readByte (l : List Word) (a : Nat) : (s.setStack l).readByte a = s.readByte a := rfl
@[simp] theorem setStack_pixel (l : List Word) (j : Nat) : (s.setStack l).pixel j = s.pixel j := rfl
@[simp] theorem setStack_rndByte (l : List Word) : (s.setStack l).rndByte = s.rndByte := rfl
@[simp] theorem setStack_dataAddr (l : List Word) (j : Nat) : (s.setStack l).dataAddr j = s.dataAddr j := rfl
@[simp] theorem setStack_fetchAddr (l : List Word) : (s.setStack l).fetchAddr = s.fetchAddr := rfl

/-! ### `setMem` -/

@[simp] theorem setMem_v (m : List Host.Cell) : (s.setMem m).v = s.v := rfl
@[simp] theorem setMem_i (m : List Host.Cell) : (s.setMem m).i = s.i := rfl
@[simp] theorem setMem_pc (m : List Host.Cell) : (s.setMem m).pc = s.pc := rfl
@[simp] theorem setMem_dt (m : List Host.Cell) : (s.setMem m).dt = s.dt := rfl
@[simp] theorem setMem_st (m : List Host.Cell) : (s.setMem m).st = s.st := rfl
@[simp] theorem setMem_stack (m : List Host.Cell) : (s.setMem m).stack = s.stack := rfl
@[simp] theorem setMem_sp (m : List Host.Cell) : (s.setMem m).sp = s.sp := rfl
@[simp] theorem setMem_mem (m : List Host.Cell) : (s.setMem m).mem = m := rfl
@[simp] theorem setMem_disp (m : List Host.Cell) : (s.setMem m).disp = s.disp := rfl
@[simp] theorem setMem_redraw (m : List Host.Cell) : (s.setMem m).redraw = s.redraw := rfl
@[simp] theorem setMem_keys (m : List Host.Cell) : (s.setMem m).keys = s.keys := rfl
@[simp] theorem setMem_waitKey (m : List Host.Cell) : (s.setMem m).waitKey = s.waitKey := rfl
@[simp] theorem setMem_waitX (m : List Host.Cell) : (s.setMem m).waitX = s.waitX := rfl
@[simp] theorem setMem_cfg (m : List Host.Cell) : (s.setMem m).cfg = s.cfg := rfl
@[simp] theorem setMem_rnd (m : List Host.Cell) : (s.setMem m).rnd = s.rnd := rfl
@[simp] theorem setMem_draws (m : List Host.Cell) : (s.setMem m).draws = s.draws := rfl
@[simp] theorem setMem_result (m : List Host.Cell) : (s.setMem m).result = s.result := rfl
@[simp] theorem setMem_readV (m : List Host.Cell) (z : Reg) : (s.setMem m).readV z = s.readV z := rfl
@[simp] theorem setMem_stackEntry (m : List Host.Cell) (j : Nat) : (s.setMem m).stackEntry j = s.stackEntry j := rfl
@[simp] theorem setMem_pixel (m : List Host.Cell) (j : Nat) : (s.setMem m).pixel j = s.pixel j := rfl
@[simp] theorem setMem_rndByte (m : List Host.Cell) : (s.setMem m).rndByte = s.rndByte := rfl
@[simp] theorem setMem_dataAddr (m : List Host.Cell) (j : Nat) : (s.setMem m).dataAddr j = s.dataAddr j := rfl
@[simp] theorem setMem_fetchAddr (m : List Host.Cell) : (s.setMem m).fetchAddr = s.fetchAddr := rfl

/-! ### `setDisp` -/

@[simp] theorem setDisp_v (d : Screen) : (s.setDisp d).v = s.v := rfl
@[simp] theorem setDisp_i (d : Screen) : (s.setDisp d).i = s.i := rfl
@[simp] theorem setDisp_pc (d : Screen) : (s.setDisp d).pc = s.pc := rfl
@[simp] theorem setDisp_dt (d : Screen) : (s.setDisp d).dt = s.dt := rfl
@[simp] theorem setDisp_st (d : Screen) : (s.setDisp d).st = s.st := rfl
@[simp] theorem setDisp_stack (d : Screen) : (s.setDisp d).stack = s.stack := rfl
@[simp] theorem setDisp_sp (d : Screen) : (s.setDisp d).sp = s.sp := rfl
@[simp] theorem setDisp_mem (d : Screen) : (s.setDisp d).mem = s.mem := rfl
@[simp] theorem setDisp_disp (d : Screen) : (s.setDisp d).disp = d := rfl
@[simp] theorem setDisp_redraw (d : Screen) : (s.setDisp d).redraw = s.redraw := rfl
@[simp] theorem setDisp_keys (d : Screen) : (s.setDisp d).keys = s.keys := rfl
@[simp] theorem setDisp_waitKey (d : Screen) : (s.setDisp d).waitKey = s.waitKey := rfl
@[simp] theorem setDisp_waitX (d : Screen) : (s.setDisp d).waitX = s.waitX := rfl
@[simp] theorem setDisp_cfg (d : Screen) : (s.setDisp d).cfg = s.cfg := rfl
@[simp] theorem setDisp_rnd (d : Screen) : (s.setDisp d).rnd = s.rnd := rfl
@[simp] theorem setDisp_draws (d : Screen) : (s.setDisp d).draws = s.draws := rfl
@[simp] theorem setDisp_result (d : Screen) : (s.setDisp d).result = s.result := rfl
@[simp] theorem setDisp_readV (d : Screen) (z : Reg) : (s.setDisp d).readV z = s.readV z := rfl
@[simp] theorem setDisp_readByte (d : Screen) (a : Nat) : (s.setDisp d).readByte a = s.readByte a := rfl
@[simp] theorem setDisp_stackEntry (d : Screen) (j : Nat) : (s.setDisp d).stackEntry j = s.stackEntry j := rfl
@[simp] theorem setDisp_rndByte (d : Screen) : (s.setDisp d).rndByte = s.rndByte := rfl
@[simp] theorem setDisp_dataAddr (d : Screen) (j : Nat) : (s.setDisp d).dataAddr j = s.dataAddr j := rfl
@[simp] theorem setDisp_fetchAddr (d : Screen) : (s.setDisp d).fetchAddr = s.fetchAddr := rfl

/-! ### `setRedraw` -/

@[simp] theorem setRedraw_v (b : Bool) : (s.setRedraw b).v = s.v := rfl
@[simp] theorem setRedraw_i (b : Bool) : (s.setRedraw b).i = s.i := rfl
@[simp] theorem setRedraw_pc (b : Bool) : (s.setRedraw b).pc = s.pc := rfl
@[simp] theorem setRedraw_dt (b : Bool) : (s.setRedraw b).dt = s.dt := rfl
@[simp] theorem setRedraw_st (b : Bool) : (s.setRedraw b).st = s.st := rfl
@[simp] theorem setRedraw_stack (b : Bool) : (s.setRedraw b).stack = s.stack := rfl
@[simp] theorem setRedraw_sp (b : Bool) : (s.setRedraw b).sp = s.sp := rfl
@[simp] theorem setRedraw_mem (b : Bool) : (s.setRedraw b).mem = s.mem := rfl
@[simp] theorem setRedraw_disp (b : Bool) : (s.setRedraw b).disp = s.disp := rfl
@[simp] theorem setRedraw_redraw (b : Bool) : (s.setRedraw b).redraw = b := rfl
@[simp] theorem setRedraw_keys (b : Bool) : (s.setRedraw b).keys = s.keys := rfl
@[simp] theorem setRedraw_waitKey (b : Bool) : (s.setRedraw b).waitKey = s.waitKey := rfl
@[simp] theorem setRedraw_waitX (b : Bool) : (s.setRedraw b).waitX = s.waitX := rfl
@[simp] theorem setRedraw_cfg (b : Bool) : (s.setRedraw b).cfg = s.cfg := rfl
@[simp] theorem setRedraw_rnd (b : Bool) : (s.setRedraw b).rnd = s.rnd := rfl
@[simp] theorem setRedraw_draws (b : Bool) : (s.setRedraw b).draws = s.draws := rfl
@[simp] theorem setRedraw_result (b : Bool) : (s.setRedraw b).result = s.result := rfl
@[simp] theorem setRedraw_readV (b : Bool) (z : Reg) : (s.setRedraw b).readV z = s.readV z := rfl
@[simp] theorem setRedraw_readByte (b : Bool) (a : Nat) : (s.setRedraw b).readByte a = s.readByte a := rfl
@[simp] theorem setRedraw_stackEntry (b : Bool) (j : Nat) : (s.setRedraw b).stackEntry j = s.stackEntry j := rfl
@[simp] theorem setRedraw_pixel (b : Bool) (j : Nat) : (s.setRedraw b).pixel j = s.pixel j := rfl
@[simp] theorem setRedraw_rndByte (b : Bool) : (s.setRedraw b).rndByte = s.rndByte := rfl
@[simp] theorem setRedraw_dataAddr (b : Bool) (j : Nat) : (s.setRedraw b).dataAddr j = s.dataAddr j := rfl
@[simp] theorem setRedraw_fetchAddr (b : Bool) : (s.setRedraw b).fetchAddr = s.fetchAddr := rfl

/-! ### `setKeys` -/

@[simp] theorem setKeys_v (k : BitVec 16) : (s.setKeys k).v = s.v := rfl
@[simp] theorem setKeys_i (k : BitVec 16) : (s.setKeys k).i = s.i := rfl
@[simp] theorem setKeys_pc (k : BitVec 16) : (s.setKeys k).pc = s.pc := rfl
@[simp] theorem setKeys_dt (k : BitVec 16) : (s.setKeys k).dt = s.dt := rfl
@[simp] theorem setKeys_st (k : BitVec 16) : (s.setKeys k).st = s.st := rfl
@[simp] theorem setKeys_stack (k : BitVec 16) : (s.setKeys k).stack = s.stack := rfl
@[simp] theorem setKeys_sp (k : BitVec 16) : (s.setKeys k).sp = s.sp := rfl
@[simp] theorem setKeys_mem (k : BitVec 16) : (s.setKeys k).mem = s.mem := rfl
@[simp] theorem setKeys_disp (k : BitVec 16) : (s.setKeys k).disp = s.disp := rfl
@[simp] theorem setKeys_redraw (k : BitVec 16) : (s.setKeys k).redraw = s.redraw := rfl
@[simp] theorem setKeys_keys (k : BitVec 16) : (s.setKeys k).keys = k := rfl
@[simp] theorem setKeys_waitKey (k : BitVec 16) : (s.setKeys k).waitKey = s.waitKey := rfl
@[simp] theorem setKeys_waitX (k : BitVec 16) : (s.setKeys k).waitX = s.waitX := rfl
@[simp] theorem setKeys_cfg (k : BitVec 16) : (s.setKeys k).cfg = s.cfg := rfl
@[simp] theorem setKeys_rnd (k : BitVec 16) : (s.setKeys k).rnd = s.rnd := rfl
@[simp] theorem setKeys_draws (k : BitVec 16) : (s.setKeys k).draws = s.draws := rfl
@[simp] theorem setKeys_result (k : BitVec 16) : (s.setKeys k).result = s.result := rfl
@[simp] theorem setKeys_readV (k : BitVec 16) (z : Reg) : (s.setKeys k).readV z = s.readV z := rfl
@[simp] theorem setKeys_readByte (k : BitVec 16) (a : Nat) : (s.setKeys k).readByte a = s.readByte a := rfl
@[simp] theorem setKeys_stackEntry (k : BitVec 16) (j : Nat) : (s.setKeys k).stackEntry j = s.stackEntry j := rfl
@[simp] theorem setKeys_pixel (k : BitVec 16) (j : Nat) : (s.setKeys k).pixel j = s.pixel j := rfl
@[simp] theorem setKeys_rndByte (k : BitVec 16) : (s.setKeys k).rndByte = s.rndByte := rfl
@[simp] theorem setKeys_dataAddr (k : BitVec 16) (j : Nat) : (s.setKeys k).dataAddr j = s.dataAddr j := rfl
@[simp] theorem setKeys_fetchAddr (k : BitVec 16) : (s.setKeys k).fetchAddr = s.fetchAddr := rfl

/-! ### `setWaitKey` -/

@[simp] theorem setWaitKey_v (b : Bool) : (s.setWaitKey b).v = s.v := rfl
@[simp] theorem setWaitKey_i (b : Bool) : (s.setWaitKey b).i = s.i := rfl
@[simp] theorem setWaitKey_pc (b : Bool) : (s.setWaitKey b).pc = s.pc := rfl
@[simp] theorem setWaitKey_dt (b : Bool) : (s.setWaitKey b).dt = s.dt := rfl
@[simp] theorem setWaitKey_st (b : Bool) : (s.setWaitKey b).st = s.st := rfl
@[simp] theorem setWaitKey_stack (b : Bool) : (s.setWaitKey b).stack = s.stack := rfl
@[simp] theorem setWaitKey_sp (b : Bool) : (s.setWaitKey b).sp = s.sp := rfl
@[simp] theorem setWaitKey_mem (b : Bool) : (s.setWaitKey b).mem = s.mem := rfl
@[simp] theorem setWaitKey_disp (b : Bool) : (s.setWaitKey b).disp = s.disp := rfl
@[simp] theorem setWaitKey_redraw (b : Bool) : (s.setWaitKey b).redraw = s.redraw := rfl
@[simp] theorem setWaitKey_keys (b : Bool) : (s.setWaitKey b).keys = s.keys := rfl
@[simp] theorem setWaitKey_waitKey (b : Bool) : (s.setWaitKey b).waitKey = b := rfl
@[simp] theorem setWaitKey_waitX (b : Bool) : (s.setWaitKey b).waitX = s.waitX := rfl
@[simp] theorem setWaitKey_cfg (b : Bool) : (s.setWaitKey b).cfg = s.cfg := rfl
@[simp] theorem setWaitKey_rnd (b : Bool) : (s.setWaitKey b).rnd = s.rnd := rfl
@[simp] theorem setWaitKey_draws (b : Bool) : (s.setWaitKey b).draws = s.draws := rfl
@[simp] theorem setWaitKey_result (b : Bool) : (s.setWaitKey b).result = s.result := rfl
@[simp] theorem setWaitKey_readV (b : Bool) (z : Reg) : (s.setWaitKey b).readV z = s.readV z := rfl
@[simp] theorem setWaitKey_readByte (b : Bool) (a : Nat) : (s.setWaitKey b).readByte a = s.readByte a := rfl
@[simp] theorem setWaitKey_stackEntry (b : Bool) (j : Nat) : (s.setWaitKey b).stackEntry j = s.stackEntry j := rfl
@[simp] theorem setWaitKey_pixel (b : Bool) (j : Nat) : (s.setWaitKey b).pixel j = s.pixel j := rfl
@[simp] theorem setWaitKey_rndByte (b : Bool) : (s.setWaitKey b).rndByte = s.rndByte := rfl
@[simp] theorem setWaitKey_dataAddr (b : Bool) (j : Nat) : (s.setWaitKey b).dataAddr j = s.dataAddr j := rfl
@[simp] theorem setWaitKey_fetchAddr (b : Bool) : (s.setWaitKey b).fetchAddr = s.fetchAddr := rfl

/-! ### `setWaitX` -/

@[simp] theorem setWaitX_v (x : Reg) : (s.setWaitX x).v = s.v := rfl
@[simp] theorem setWaitX_i (x : Reg) : (s.setWaitX x).i = s.i := rfl
@[simp] theorem setWaitX_pc (x : Reg) : (s.setWaitX x).pc = s.pc := rfl
@[simp] theorem setWaitX_dt (x : Reg) : (s.setWaitX x).dt = s.dt := rfl
@[simp] theorem setWaitX_st (x : Reg) : (s.setWaitX x).st = s.st := rfl
@[simp] theorem setWaitX_stack (x : Reg) : (s.setWaitX x).stack = s.stack := rfl
@[simp] theorem setWaitX_sp (x : Reg) : (s.setWaitX x).sp = s.sp := rfl
@[simp] theorem setWaitX_mem (x : Reg) : (s.setWaitX x).mem = s.mem := rfl
@[simp] theorem setWaitX_disp (x : Reg) : (s.setWaitX x).disp = s.disp := rfl
@[simp] theorem setWaitX_redraw (x : Reg) : (s.setWaitX x).redraw = s.redraw := rfl
@[simp] theorem setWaitX_keys (x : Reg) : (s.setWaitX x).keys = s.keys := rfl
@[simp] theorem setWaitX_waitKey (x : Reg) : (s.setWaitX x).waitKey = s.waitKey := rfl
@[simp] theorem setWaitX_waitX (x : Reg) : (s.setWaitX x).waitX = x := rfl
@[simp] theorem setWaitX_cfg (x : Reg) : (s.setWaitX x).cfg = s.cfg := rfl
@[simp] theorem setWaitX_rnd (x : Reg) : (s.setWaitX x).rnd = s.rnd := rfl
@[simp] theorem setWaitX_draws (x : Reg) : (s.setWaitX x).draws = s.draws := rfl
@[simp] theorem setWaitX_result (x : Reg) : (s.setWaitX x).result = s.result := rfl
@[simp] theorem setWaitX_readV (x : Reg) (z : Reg) : (s.setWaitX x).readV z = s.readV z := rfl
@[simp] theorem setWaitX_readByte (x : Reg) (a : Nat) : (s.setWaitX x).readByte a = s.readByte a := rfl
@[simp] theorem setWaitX_stackEntry (x : Reg) (j : Nat) : (s.setWaitX x).stackEntry j = s.stackEntry j := rfl
@[simp] theorem setWaitX_pixel (x : Reg) (j : Nat) : (s.setWaitX x).pixel j = s.pixel j := rfl
@[simp] theorem setWaitX_rndByte (x : Reg) : (s.setWaitX x).rndByte = s.rndByte := rfl
@[simp] theorem setWaitX_dataAddr (x : Reg) (j : Nat) : (s.setWaitX x).dataAddr j = s.dataAddr j := rfl
@[simp] theorem setWaitX_fetchAddr (x : Reg) : (s.setWaitX x).fetchAddr = s.fetchAddr := rfl

/-! ### `setResult` -/

@[simp] theorem setResult_v (r : Result) : (s.setResult r).v = s.v := rfl
@[simp] theorem setResult_i (r : Result) : (s.setResult r).i = s.i := rfl
@[simp] theorem setResult_pc (r : Result) : (s.setResult r).pc = s.pc := rfl
@[simp] theorem setResult_dt (r : Result) : (s.setResult r).dt = s.dt := rfl
@[simp] theorem setResult_st (r : Result) : (s.setResult r).st = s.st := rfl
@[simp] theorem setResult_stack (r : Result) : (s.setResult r).stack = s.stack := rfl
@[simp] theorem setResult_sp (r : Result) : (s.setResult r).sp = s.sp := rfl
@[simp] theorem setResult_mem (r : Result) : (s.setResult r).mem = s.mem := rfl
@[simp] theorem setResult_disp (r : Result) : (s.setResult r).disp = s.disp := rfl
@[simp] theorem setResult_redraw (r : Result) : (s.setResult r).redraw = s.redraw := rfl
@[simp] theorem setResult_keys (r : Result) : (s.setResult r).keys = s.keys := rfl
@[simp] theorem setResult_waitKey (r : Result) : (s.setResult r).waitKey = s.waitKey := rfl
@[simp] theorem setResult_waitX (r : Result) : (s.setResult r).waitX = s.waitX := rfl
@[simp] theorem setResult_cfg (r : Result) : (s.setResult r).cfg = s.cfg := rfl
@[simp] theorem setResult_rnd (r : Result) : (s.setResult r).rnd = s.rnd := rfl
@[simp] theorem setResult_draws (r : Result) : (s.setResult r).draws = s.draws := rfl
@[simp] theorem setResult_result (r : Result) : (s.setResult r).result = r := rfl
@[simp] theorem setResult_readV (r : Result) (z : Reg) : (s.setResult r).readV z = s.readV z := rfl
@[simp] theorem setResult_readByte (r : Result) (a : Nat) : (s.setResult r).readByte a = s.readByte a := rfl
@[simp] theorem setResult_stackEntry (r : Result) (j : Nat) : (s.setResult r).stackEntry j = s.stackEntry j := rfl
@[simp] theorem setResult_pixel (r : Result) (j : Nat) : (s.setResult r).pixel j = s.pixel j := rfl
@[simp] theorem setResult_rndByte (r : Result) : (s.setResult r).rndByte = s.rndByte := rfl
@[simp] theorem setResult_dataAddr (r : Result) (j : Nat) : (s.setResult r).dataAddr j = s.dataAddr j := rfl
@[simp] theorem setResult_fetchAddr (r : Result) : (s.setResult r).fetchAddr = s.fetchAddr := rfl

/-! ### `setRnd` -/

@[simp] theorem setRnd_v (r : Option Byte) : (s.setRnd r).v = s.v := rfl
@[simp] theorem setRnd_i (r : Option Byte) : (s.setRnd r).i = s.i := rfl
@[simp] theorem setRnd_pc (r : Option Byte) : (s.setRnd r).pc = s.pc := rfl
@[simp] theorem setRnd_dt (r : Option Byte) : (s.setRnd r).dt = s.dt := rfl
@[simp] theorem setRnd_st (r : Option Byte) : (s.setRnd r).st = s.st := rfl
@[simp] theorem setRnd_stack (r : Option Byte) : (s.setRnd r).stack = s.stack := rfl
@[simp] theorem setRnd_sp (r : Option Byte) : (s.setRnd r).sp = s.sp := rfl
@[simp] theorem setRnd_mem (r : Option Byte) : (s.setRnd r).mem = s.mem := rfl
@[simp] theorem setRnd_disp (r : Option Byte) : (s.setRnd r).disp = s.disp := rfl
@[simp] theorem setRnd_redraw (r : Option Byte) : (s.setRnd r).redraw = s.redraw := rfl
@[simp] theorem setRnd_keys (r : Option Byte) : (s.setRnd r).keys = s.keys := rfl
@[simp] theorem setRnd_waitKey (r : Option Byte) : (s.setRnd r).waitKey = s.waitKey := rfl
@[simp] theorem setRnd_waitX (r : Option Byte) : (s.setRnd r).waitX = s.waitX := rfl
@[simp] theorem setRnd_cfg (r : Option Byte) : (s.setRnd r).cfg = s.cfg := rfl
@[simp] theorem setRnd_rnd (r : Option Byte) : (s.setRnd r).rnd = r := rfl
@[simp] theorem setRnd_draws (r : Option Byte) : (s.setRnd r).draws = s.draws := rfl
@[simp] theorem setRnd_result (r : Option Byte) : (s.setRnd r).result = s.result := rfl
@[simp] theorem setRnd_readV (r : Option Byte) (z : Reg) : (s.setRnd r).readV z = s.readV z := rfl
@[simp] theorem setRnd_readByte (r : Option Byte) (a : Nat) : (s.setRnd r).readByte a = s.readByte a := rfl
@[simp] theorem setRnd_stackEntry (r : Option Byte) (j : Nat) : (s.setRnd r).stackEntry j = s.stackEntry j := rfl
@[simp] theorem setRnd_pixel (r : Option Byte) (j : Nat) : (s.setRnd r).pixel j = s.pixel j := rfl
@[simp] theorem setRnd_dataAddr (r : Option Byte) (j : Nat) : (s.setRnd r).dataAddr j = s.dataAddr j := rfl
@[simp] theorem setRnd_fetchAddr (r : Option Byte) : (s.setRnd r).fetchAddr = s.fetchAddr := rfl

/-! ### `setDraws` -/

@[simp] theorem setDraws_v (n : Nat) : (s.setDraws n).v = s.v := rfl
@[simp] theorem setDraws_i (n : Nat) : (s.setDraws n).i = s.i := rfl
@[simp] theorem setDraws_pc (n : Nat) : (s.setDraws n).pc = s.pc := rfl
@[simp] theorem setDraws_dt (n : Nat) : (s.setDraws n).dt = s.dt := rfl
@[simp] theorem setDraws_st (n : Nat) : (s.setDraws n).st = s.st := rfl
@[simp] theorem setDraws_stack (n : Nat) : (s.setDraws n).stack = s.stack := rfl
@[simp] theorem setDraws_sp (n : Nat) : (s.setDraws n).sp = s.sp := rfl
@[simp] theorem setDraws_mem (n : Nat) : (s.setDraws n).mem = s.mem := rfl
@[simp] theorem setDraws_disp (n : Nat) : (s.setDraws n).disp = s.disp := rfl
@[simp] theorem setDraws_redraw (n : Nat) : (s.setDraws n).redraw = s.redraw := rfl
@[simp] theorem setDraws_keys (n : Nat) : (s.setDraws n).keys = s.keys := rfl
@[simp] theorem setDraws_waitKey (n : Nat) : (s.setDraws n).waitKey = s.waitKey := rfl
@[simp] theorem setDraws_waitX (n : Nat) : (s.setDraws n).waitX = s.waitX := rfl
@[simp] theorem setDraws_cfg (n : Nat) : (s.setDraws n).cfg = s.cfg := rfl
@[simp] theorem setDraws_rnd (n : Nat) : (s.setDraws n).rnd = s.rnd := rfl
@[simp] theorem setDraws_draws (n : Nat) : (s.setDraws n).draws = n := rfl
@[simp] theorem setDraws_result (n : Nat) : (s.setDraws n).result = s.result := rfl
@[simp] theorem setDraws_readV (n : Nat) (z : Reg) : (s.setDraws n).readV z = s.readV z := rfl
@[simp] theorem setDraws_readByte (n : Nat) (a : Nat) : (s.setDraws n).readByte a = s.readByte a := rfl
@[simp] theorem setDraws_stackEntry (n : Nat) (j : Nat) : (s.setDraws n).stackEntry j = s.stackEntry j := rfl
@[simp] theorem setDraws_pixel (n : Nat) (j : Nat) : (s.setDraws n).pixel j = s.pixel j := rfl
@[simp] theorem setDraws_dataAddr (n : Nat) (j : Nat) : (s.setDraws n).dataAddr j = s.dataAddr j := rfl
@[simp] theorem setDraws_fetchAddr (n : Nat) : (s.setDraws n).fetchAddr = s.fetchAddr := rfl

/-! ### `writeV` -/

@[simp] theorem writeV_v (x : Reg) (b : Byte) : (s.writeV x b).v = s.v.set x.toNat b := rfl
@[simp] theorem writeV_i (x : Reg) (b : Byte) : (s.writeV x b).i = s.i := rfl
@[simp] theorem writeV_pc (x : Reg) (b : Byte) : (s.writeV x b).pc = s.pc := rfl
@[simp] theorem writeV_dt (x : Reg) (b : Byte) : (s.writeV x b).dt = s.dt := rfl
@[simp] theorem writeV_st (x : Reg) (b : Byte) : (s.writeV x b).st = s.st := rfl
@[simp] theorem writeV_stack (x : Reg) (b : Byte) : (s.writeV x b).stack = s.stack := rfl
@[simp] theorem writeV_sp (x : Reg) (b : Byte) : (s.writeV x b).sp = s.sp := rfl
@[simp] theorem writeV_mem (x : Reg) (b : Byte) : (s.writeV x b).mem = s.mem := rfl
@[simp] theorem writeV_disp (x : Reg) (b : Byte) : (s.writeV x b).disp = s.disp := rfl
@[simp] theorem writeV_redraw (x : Reg) (b : Byte) : (s.writeV x b).redraw = s.redraw := rfl
@[simp] theorem writeV_keys (x : Reg) (b : Byte) : (s.writeV x b).keys = s.keys := rfl
@[simp] theorem writeV_waitKey (x : Reg) (b : Byte) : (s.writeV x b).waitKey = s.waitKey := rfl
@[simp] theorem writeV_waitX (x : Reg) (b : Byte) : (s.writeV x b).waitX = s.waitX := rfl
@[simp] theorem writeV_cfg (x : Reg) (b : Byte) : (s.writeV x b).cfg = s.cfg := rfl
@[simp] theorem writeV_rnd (x : Reg) (b : Byte) : (s.writeV x b).rnd = s.rnd := rfl
@[simp] theorem writeV_draws (x : Reg) (b : Byte) : (s.writeV x b).draws = s.draws := rfl
@[simp] theorem writeV_result (x : Reg) (b : Byte) : (s.writeV x b).result = s.result := rfl
@[simp] theorem writeV_readByte (x : Reg) (b : Byte) (a : Nat) : (s.writeV x b).readByte a = s.readByte a := rfl
@[simp] theorem writeV_stackEntry (x : Reg) (b : Byte) (j : Nat) : (s.writeV x b).stackEntry j = s.stackEntry j := rfl
@[simp] theorem writeV_pixel (x : Reg) (b : Byte) (j : Nat) : (s.writeV x b).pixel j = s.pixel j := rfl
@[simp] theorem writeV_rndByte (x : Reg) (b : Byte) : (s.writeV x b).rndByte = s.rndByte := rfl
@[simp] theorem writeV_dataAddr (x : Reg) (b : Byte) (j : Nat) : (s.writeV x b).dataAddr j = s.dataAddr j := rfl
@[simp] theorem writeV_fetchAddr (x : Reg) (b : Byte) : (s.writeV x b).fetchAddr = s.fetchAddr := rfl

end Sys2Proof.Machine.State
end

