-- ==== Sys2Proof/Laws/Ops.lean ====
section
/-! SUPPORT. The laws of the shared operations: registers, memory and its canonical form, runs of bytes, the stack, the keys. -/

namespace Sys2Proof.Machine

/-! ### Registers -/

@[simp] theorem State.readV_writeV (s : State) (x z : Reg) (b : Byte) :
    (s.writeV x b).readV z = if z = x then b else s.readV z := by
  simp only [State.readV, State.writeV, Vector.getElem_set, BitVec.toNat_inj, eq_comm]

/-! ### Memory -/

/-- What a list of cells reads as. -/
def Memory.read (cfg : Config) (m : List Host.Cell) (a : Nat) : Byte := (Memory.lookup m a).getD (resetByte cfg a)

theorem State.readByte_eq (s : State) (a : Nat) : s.readByte a = Memory.read s.cfg s.mem a := rfl

theorem Memory.lookup_below {cfg : Config} {m : List Host.Cell} {lo a : Nat} (h : Memory.wfFrom cfg lo m = true)
    (ha : a < lo) : Memory.lookup m a = none := by
  induction m generalizing lo with
  | nil => rfl
  | cons c m ih =>
    obtain ⟨k, d⟩ := c
    simp only [Memory.wfFrom, Bool.and_eq_true, decide_eq_true_eq] at h
    rw [Memory.lookup, if_neg (by omega)]
    exact ih h.2 (by omega)

theorem Memory.read_below {cfg : Config} {m : List Host.Cell} {lo a : Nat} (h : Memory.wfFrom cfg lo m = true)
    (ha : a < lo) : Memory.read cfg m a = resetByte cfg a := by
  rw [Memory.read, Memory.lookup_below h ha]; rfl

theorem Memory.read_cons_cell (cfg : Config) (k a : Nat) (d : Byte) (m : List Host.Cell) :
    Memory.read cfg ((k, d) :: m) a = if a = k then d else Memory.read cfg m a := by
  simp only [Memory.read, Memory.lookup]; split <;> rfl

theorem Memory.read_cons {cfg : Config} {m : List Host.Cell} {a : Nat} (b : Byte) (c : Nat)
    (h : Memory.wfFrom cfg (a + 1) m = true) :
    Memory.read cfg (Memory.cons cfg a b m) c = if c = a then b else Memory.read cfg m c := by
  unfold Memory.cons
  split
  · rename_i hb
    split
    · subst c; rw [Memory.read_below h (by omega), hb]
    · rfl
  · exact Memory.read_cons_cell cfg a c b m

/-- A read after a write (R72). -/
theorem Memory.read_put {cfg : Config} {m : List Host.Cell} {lo : Nat} (a : Nat) (b : Byte) (c : Nat)
    (h : Memory.wfFrom cfg lo m = true) :
    Memory.read cfg (Memory.put cfg m a b) c = if c = a then b else Memory.read cfg m c := by
  induction m generalizing lo with
  | nil => exact Memory.read_cons b c (m := []) rfl
  | cons e m ih =>
    obtain ⟨k, d⟩ := e
    have h' := h
    simp only [Memory.wfFrom, Bool.and_eq_true, decide_eq_true_eq] at h
    rw [Memory.put]
    split
    · rw [Memory.read_cons_cell, Memory.read_cons_cell, ih h.2]
      split <;> split <;> first | rfl | omega
    · split
      · subst k
        rw [Memory.read_cons b c h.2, Memory.read_cons_cell]
        split <;> rfl
      · refine Memory.read_cons b c ?_
        simp only [Memory.wfFrom, Bool.and_eq_true, decide_eq_true_eq]
        exact ⟨⟨⟨by omega, h.1.1.2⟩, h.1.2⟩, h.2⟩

theorem Memory.wfFrom_mono {cfg : Config} {m : List Host.Cell} {lo lo' : Nat} (hl : lo' ≤ lo)
    (h : Memory.wfFrom cfg lo m = true) : Memory.wfFrom cfg lo' m = true := by
  cases m with
  | nil => rfl
  | cons e m =>
    obtain ⟨k, d⟩ := e
    simp only [Memory.wfFrom, Bool.and_eq_true, decide_eq_true_eq] at h ⊢
    exact ⟨⟨⟨by omega, h.1.1.2⟩, h.1.2⟩, h.2⟩

theorem Memory.wfFrom_cons {cfg : Config} {m : List Host.Cell} {lo a : Nat} (b : Byte) (hl : lo ≤ a) (ha : a < memSize)
    (h : Memory.wfFrom cfg (a + 1) m = true) : Memory.wfFrom cfg lo (Memory.cons cfg a b m) = true := by
  unfold Memory.cons
  split
  · exact Memory.wfFrom_mono (by omega) h
  · simp only [Memory.wfFrom, Bool.and_eq_true, decide_eq_true_eq]
    exact ⟨⟨⟨hl, ha⟩, by assumption⟩, h⟩

/-- A write inside memory keeps the canonical form. -/
theorem Memory.wfFrom_put {cfg : Config} {m : List Host.Cell} {lo a : Nat} (b : Byte) (hl : lo ≤ a) (ha : a < memSize)
    (h : Memory.wfFrom cfg lo m = true) : Memory.wfFrom cfg lo (Memory.put cfg m a b) = true := by
  induction m generalizing lo with
  | nil => exact Memory.wfFrom_cons b hl ha rfl
  | cons e m ih =>
    obtain ⟨k, d⟩ := e
    simp only [Memory.wfFrom, Bool.and_eq_true, decide_eq_true_eq] at h
    rw [Memory.put]
    split
    · simp only [Memory.wfFrom, Bool.and_eq_true, decide_eq_true_eq]
      exact ⟨h.1, ih (by omega) h.2⟩
    · split
      · subst k; exact Memory.wfFrom_cons b hl ha h.2
      · refine Memory.wfFrom_cons b hl ha ?_
        simp only [Memory.wfFrom, Bool.and_eq_true, decide_eq_true_eq]
        exact ⟨⟨⟨by omega, h.1.1.2⟩, h.1.2⟩, h.2⟩

theorem Memory.wf_put {cfg : Config} {m : List Host.Cell} {a : Nat} (b : Byte) (ha : a < memSize)
    (h : Memory.wf cfg m = true) : Memory.wf cfg (Memory.put cfg m a b) = true :=
  Memory.wfFrom_put b (by omega) ha h

theorem State.readByte_writeByte {s : State} (h : Memory.wf s.cfg s.mem = true) (a c : Nat) (b : Byte) :
    (s.writeByte a b).readByte c = if c = a then b else s.readByte c :=
  Memory.read_put a b c h

theorem State.wf_writeByte {s : State} (h : Memory.wf s.cfg s.mem = true) {a : Nat} (ha : a < memSize) (b : Byte) :
    Memory.wf (s.writeByte a b).cfg (s.writeByte a b).mem = true :=
  Memory.wf_put b ha h

/-! ### Runs of bytes -/

@[simp] theorem State.readBytes_length (s : State) (a k : Nat) : (s.readBytes a k).length = k := by
  induction k generalizing a with
  | zero => rfl
  | succ k ih => simp [State.readBytes, ih]

theorem State.readBytes_getD (s : State) (a k j : Nat) (hj : j < k) (d : Byte) :
    (s.readBytes a k).getD j d = s.readByte (a + j) := by
  induction k generalizing a j with
  | zero => omega
  | succ k ih =>
    cases j with
    | zero => simp [State.readBytes]
    | succ j =>
      simp only [State.readBytes, List.getD_cons_succ]
      rw [ih (a + 1) j (by omega)]; congr 1; omega

theorem State.writeBytes_eq_setMem (s : State) (a : Nat) (bs : List Byte) :
    s.writeBytes a bs = s.setMem (s.writeBytes a bs).mem := by
  induction bs generalizing s a with
  | nil => rfl
  | cons b bs ih => rw [State.writeBytes, ih]; rfl

namespace State
variable (s : State)
@[simp] theorem writeBytes_v (a : Nat) (bs : List Byte) : (s.writeBytes a bs).v = s.v := by rw [writeBytes_eq_setMem]; rfl
@[simp] theorem writeBytes_i (a : Nat) (bs : List Byte) : (s.writeBytes a bs).i = s.i := by rw [writeBytes_eq_setMem]; rfl
@[simp] theorem writeBytes_pc (a : Nat) (bs : List Byte) : (s.writeBytes a bs).pc = s.pc := by rw [writeBytes_eq_setMem]; rfl
@[simp] theorem writeBytes_dt (a : Nat) (bs : List Byte) : (s.writeBytes a bs).dt = s.dt := by rw [writeBytes_eq_setMem]; rfl
@[simp] theorem writeBytes_st (a : Nat) (bs : List Byte) : (s.writeBytes a bs).st = s.st := by rw [writeBytes_eq_setMem]; rfl
@[simp] theorem writeBytes_stack (a : Nat) (bs : List Byte) : (s.writeBytes a bs).stack = s.stack := by rw [writeBytes_eq_setMem]; rfl
@[simp] theorem writeBytes_sp (a : Nat) (bs : List Byte) : (s.writeBytes a bs).sp = s.sp := by rw [writeBytes_eq_setMem]; rfl
@[simp] theorem writeBytes_disp (a : Nat) (bs : List Byte) : (s.writeBytes a bs).disp = s.disp := by rw [writeBytes_eq_setMem]; rfl
@[simp] theorem writeBytes_redraw (a : Nat) (bs : List Byte) : (s.writeBytes a bs).redraw = s.redraw := by rw [writeBytes_eq_setMem]; rfl
@[simp] theorem writeBytes_keys (a : Nat) (bs : List Byte) : (s.writeBytes a bs).keys = s.keys := by rw [writeBytes_eq_setMem]; rfl
@[simp] theorem writeBytes_waitKey (a : Nat) (bs : List Byte) : (s.writeBytes a bs).waitKey = s.waitKey := by rw [writeBytes_eq_setMem]; rfl
@[simp] theorem writeBytes_waitX (a : Nat) (bs : List Byte) : (s.writeBytes a bs).waitX = s.waitX := by rw [writeBytes_eq_setMem]; rfl
@[simp] theorem writeBytes_cfg (a : Nat) (bs : List Byte) : (s.writeBytes a bs).cfg = s.cfg := by rw [writeBytes_eq_setMem]; rfl
@[simp] theorem writeBytes_rnd (a : Nat) (bs : List Byte) : (s.writeBytes a bs).rnd = s.rnd := by rw [writeBytes_eq_setMem]; rfl
@[simp] theorem writeBytes_draws (a : Nat) (bs : List Byte) : (s.writeBytes a bs).draws = s.draws := by rw [writeBytes_eq_setMem]; rfl
@[simp] theorem writeBytes_result (a : Nat) (bs : List Byte) : (s.writeBytes a bs).result = s.result := by rw [writeBytes_eq_setMem]; rfl
@[simp] theorem writeBytes_readV (a : Nat) (bs : List Byte) (z : Reg) : (s.writeBytes a bs).readV z = s.readV z := by rw [writeBytes_eq_setMem]; rfl
@[simp] theorem writeBytes_stackEntry (a : Nat) (bs : List Byte) (j : Nat) : (s.writeBytes a bs).stackEntry j = s.stackEntry j := by rw [writeBytes_eq_setMem]; rfl
@[simp] theorem writeBytes_pixel (a : Nat) (bs : List Byte) (j : Nat) : (s.writeBytes a bs).pixel j = s.pixel j := by rw [writeBytes_eq_setMem]; rfl
@[simp] theorem writeBytes_rndByte (a : Nat) (bs : List Byte) : (s.writeBytes a bs).rndByte = s.rndByte := by rw [writeBytes_eq_setMem]; rfl
@[simp] theorem writeBytes_dataAddr (a : Nat) (bs : List Byte) (j : Nat) : (s.writeBytes a bs).dataAddr j = s.dataAddr j := by rw [writeBytes_eq_setMem]; rfl
@[simp] theorem writeBytes_fetchAddr (a : Nat) (bs : List Byte) : (s.writeBytes a bs).fetchAddr = s.fetchAddr := by rw [writeBytes_eq_setMem]; rfl
end State

/-- A run of writes inside memory keeps the canonical form. -/
theorem State.wf_writeBytes {s : State} (h : Memory.wf s.cfg s.mem = true) {a : Nat} {bs : List Byte}
    (ha : a + bs.length ≤ memSize) : Memory.wf s.cfg (s.writeBytes a bs).mem = true := by
  induction bs generalizing s a with
  | nil => exact h
  | cons b bs ih =>
    simp only [List.length_cons] at ha
    exact ih (s := s.writeByte a b) (State.wf_writeByte h (by omega) b) (by omega)

/-- What memory reads as after a run of writes: the run, and every other byte as before (R64, R72). -/
theorem State.readByte_writeBytes {s : State} (h : Memory.wf s.cfg s.mem = true) {a : Nat} {bs : List Byte}
    (ha : a + bs.length ≤ memSize) (c : Nat) :
    (s.writeBytes a bs).readByte c = if a ≤ c ∧ c < a + bs.length then bs.getD (c - a) 0 else s.readByte c := by
  induction bs generalizing s a with
  | nil => rw [if_neg (by simp only [List.length_nil]; omega)]; rfl
  | cons b bs ih =>
    simp only [List.length_cons] at ha ⊢
    rw [State.writeBytes, ih (State.wf_writeByte h (by omega) b) (by omega), State.readByte_writeByte h]
    by_cases h1 : c = a
    · subst c; rw [if_neg (by omega), if_pos rfl, if_pos (by omega)]; simp
    · by_cases h2 : a + 1 ≤ c ∧ c < a + 1 + bs.length
      · rw [if_pos h2, if_pos (by omega), show c - a = (c - (a + 1)) + 1 by omega]; rfl
      · rw [if_neg h2, if_neg h1, if_neg (by omega)]

theorem State.writeRegs_eq_setV (s : State) (k : Nat) (bs : List Byte) :
    s.writeRegs k bs = { s with v := (s.writeRegs k bs).v } := by
  induction bs generalizing s k with
  | nil => rfl
  | cons b bs ih => rw [State.writeRegs, ih]; rfl

namespace State
variable (s : State)
@[simp] theorem writeRegs_i (k : Nat) (bs : List Byte) : (s.writeRegs k bs).i = s.i := by rw [writeRegs_eq_setV]
@[simp] theorem writeRegs_pc (k : Nat) (bs : List Byte) : (s.writeRegs k bs).pc = s.pc := by rw [writeRegs_eq_setV]
@[simp] theorem writeRegs_dt (k : Nat) (bs : List Byte) : (s.writeRegs k bs).dt = s.dt := by rw [writeRegs_eq_setV]
@[simp] theorem writeRegs_st (k : Nat) (bs : List Byte) : (s.writeRegs k bs).st = s.st := by rw [writeRegs_eq_setV]
@[simp] theorem writeRegs_stack (k : Nat) (bs : List Byte) : (s.writeRegs k bs).stack = s.stack := by rw [writeRegs_eq_setV]
@[simp] theorem writeRegs_sp (k : Nat) (bs : List Byte) : (s.writeRegs k bs).sp = s.sp := by rw [writeRegs_eq_setV]
@[simp] theorem writeRegs_mem (k : Nat) (bs : List Byte) : (s.writeRegs k bs).mem = s.mem := by rw [writeRegs_eq_setV]
@[simp] theorem writeRegs_disp (k : Nat) (bs : List Byte) : (s.writeRegs k bs).disp = s.disp := by rw [writeRegs_eq_setV]
@[simp] theorem writeRegs_redraw (k : Nat) (bs : List Byte) : (s.writeRegs k bs).redraw = s.redraw := by rw [writeRegs_eq_setV]
@[simp] theorem writeRegs_keys (k : Nat) (bs : List Byte) : (s.writeRegs k bs).keys = s.keys := by rw [writeRegs_eq_setV]
@[simp] theorem writeRegs_waitKey (k : Nat) (bs : List Byte) : (s.writeRegs k bs).waitKey = s.waitKey := by rw [writeRegs_eq_setV]
@[simp] theorem writeRegs_waitX (k : Nat) (bs : List Byte) : (s.writeRegs k bs).waitX = s.waitX := by rw [writeRegs_eq_setV]
@[simp] theorem writeRegs_cfg (k : Nat) (bs : List Byte) : (s.writeRegs k bs).cfg = s.cfg := by rw [writeRegs_eq_setV]
@[simp] theorem writeRegs_rnd (k : Nat) (bs : List Byte) : (s.writeRegs k bs).rnd = s.rnd := by rw [writeRegs_eq_setV]
@[simp] theorem writeRegs_draws (k : Nat) (bs : List Byte) : (s.writeRegs k bs).draws = s.draws := by rw [writeRegs_eq_setV]
@[simp] theorem writeRegs_result (k : Nat) (bs : List Byte) : (s.writeRegs k bs).result = s.result := by rw [writeRegs_eq_setV]
@[simp] theorem writeRegs_readByte (k : Nat) (bs : List Byte) (c : Nat) : (s.writeRegs k bs).readByte c = s.readByte c := by rw [writeRegs_eq_setV]; rfl
@[simp] theorem writeRegs_stackEntry (k : Nat) (bs : List Byte) (j : Nat) : (s.writeRegs k bs).stackEntry j = s.stackEntry j := by rw [writeRegs_eq_setV]; rfl
@[simp] theorem writeRegs_pixel (k : Nat) (bs : List Byte) (j : Nat) : (s.writeRegs k bs).pixel j = s.pixel j := by rw [writeRegs_eq_setV]; rfl
@[simp] theorem writeRegs_rndByte (k : Nat) (bs : List Byte) : (s.writeRegs k bs).rndByte = s.rndByte := by rw [writeRegs_eq_setV]; rfl
@[simp] theorem writeRegs_dataAddr (k : Nat) (bs : List Byte) (j : Nat) : (s.writeRegs k bs).dataAddr j = s.dataAddr j := by rw [writeRegs_eq_setV]; rfl
@[simp] theorem writeRegs_fetchAddr (k : Nat) (bs : List Byte) : (s.writeRegs k bs).fetchAddr = s.fetchAddr := by rw [writeRegs_eq_setV]; rfl
end State

/-- The registers after a run of register writes (R184). -/
theorem State.readV_writeRegs (s : State) (k : Nat) (bs : List Byte) (hk : k + bs.length ≤ 16) (z : Reg) :
    (s.writeRegs k bs).readV z =
      if k ≤ z.toNat ∧ z.toNat < k + bs.length then bs.getD (z.toNat - k) 0 else s.readV z := by
  induction bs generalizing s k with
  | nil => rw [if_neg (by simp only [List.length_nil]; omega)]; rfl
  | cons b bs ih =>
    simp only [List.length_cons] at hk ⊢
    rw [State.writeRegs, ih _ _ (by omega), State.readV_writeV]
    have hz : z = BitVec.ofNat 4 k ↔ z.toNat = k := by
      rw [← BitVec.toNat_inj, BitVec.toNat_ofNat, Nat.mod_eq_of_lt (by omega)]
    by_cases h1 : z.toNat = k
    · rw [if_neg (by omega), if_pos (hz.2 h1), if_pos (by omega), h1]; simp
    · by_cases h2 : k + 1 ≤ z.toNat ∧ z.toNat < k + 1 + bs.length
      · rw [if_pos h2, if_pos (by omega), show z.toNat - k = (z.toNat - (k + 1)) + 1 by omega]; rfl
      · rw [if_neg h2, if_neg (fun e => h1 (hz.1 e)), if_neg (by omega)]

@[simp] theorem State.regBlock_length (s : State) (x : Reg) : (s.regBlock x).length = x.toNat + 1 := by
  simp only [State.regBlock, List.length_take, Vector.length_toList]; omega

theorem State.regBlock_getD (s : State) (x z : Reg) (h : z ≤ x) (d : Byte) :
    (s.regBlock x).getD z.toNat d = s.readV z := by
  have hz : z.toNat < x.toNat + 1 := by have := BitVec.le_def.1 h; omega
  simp only [State.regBlock, State.readV, List.getD_eq_getElem?_getD, List.getElem?_take, if_pos hz]
  rw [List.getElem?_eq_getElem (by rw [Vector.length_toList]; exact z.isLt), Option.getD_some, Vector.getElem_toList]

@[simp] theorem State.dataBlock_length (s : State) (x : Reg) : (s.dataBlock x).length = x.toNat + 1 :=
  s.readBytes_length _ _

@[simp] theorem decimalDigits_length (b : Byte) : (decimalDigits b).length = 3 := rfl

/-! ### Data accesses -/

theorem State.dataAddr_lt (s : State) : s.dataAddr 0 < memSize := (Word.low12 s.i).isLt

/-- The base of a data access is the low 12 bits of I, and the sum is not reduced (R67). -/
theorem State.dataAddr_eq (s : State) (k : Nat) : s.dataAddr k = s.i.toNat % 4096 + k := by
  rw [State.dataAddr, BitVec.extractLsb'_toNat, Nat.shiftRight_zero]

theorem State.dataAddr_add (s : State) (k : Nat) : s.dataAddr k = s.dataAddr 0 + k := rfl

theorem State.dataFits_iff (s : State) (k : Nat) : s.dataFits k = true ↔ s.dataAddr 0 + k ≤ memSize := by
  rw [State.dataFits, decide_eq_true_eq]; rfl

/-- An index-relative access answers a next state: its effect, or the out-of-bounds result and nothing else (R67, R68). -/
theorem State.withData_eq (s : State) (k : Nat) (e : State) :
    s.withData k e = .next (if s.dataFits k then e.setResult .ok else s.setResult (.dataOob memSize)) := by
  unfold State.withData; split <;> rfl

/-! ### The stack -/

theorem State.push_cases (s : State) (w : Word) :
    (s.sp < s.cfg.stackDepth ∧ s.push w = some ((s.setStack (s.stack.set s.sp w)).setSp (s.sp + 1))) ∨
    (s.cfg.stackDepth ≤ s.sp ∧ s.push w = none) := by
  unfold State.push
  split
  · exact .inl ⟨by assumption, rfl⟩
  · exact .inr ⟨by omega, rfl⟩

theorem State.pop_cases (s : State) :
    (0 < s.sp ∧ s.pop = some (s.stackEntry (s.sp - 1), s.setSp (s.sp - 1))) ∨ (s.sp = 0 ∧ s.pop = none) := by
  unfold State.pop
  split
  · exact .inr ⟨by assumption, rfl⟩
  · rename_i k hk; rw [hk]; exact .inl ⟨by omega, rfl⟩

/-- The entry a push wrote is the one it reads back, and the others are as before (R28). -/
theorem State.stackEntry_setStack_set (s : State) (k j : Nat) (w : Word) (hk : k < s.stack.length) :
    (s.setStack (s.stack.set k w)).stackEntry j = if j = k then w else s.stackEntry j := by
  simp only [State.stackEntry, State.setStack_stack, List.getD_eq_getElem?_getD, List.getElem?_set]
  by_cases h : k = j
  · subst h; simp [hk]
  · simp [h, Ne.symm h]

/-! ### Keys -/

/-- The lowest key that is down (R125). -/
theorem leastKey_some {keys : BitVec 16} {k : Nat} (h : leastKey keys = some k) :
    k < 16 ∧ keys.getLsbD k = true ∧ ∀ j, j < k → keys.getLsbD j = false := by
  rw [leastKey, List.find?_range_eq_some] at h
  simpa [and_comm, and_assoc, and_left_comm] using h

theorem leastKey_none_iff (keys : BitVec 16) : leastKey keys = none ↔ keys = 0 := by
  simp only [leastKey, List.find?_range_eq_none]
  constructor
  · intro h; apply BitVec.eq_of_getLsbD_eq; intro j hj; simpa using h j hj
  · rintro rfl; simp

end Sys2Proof.Machine
end

