-- ==== Sys2Proof/Laws/Blit.lean ====
section
/-! SUPPORT. The laws of the display buffer and the blitter (R30, R201): which pixels a sprite draw changes and when it collides. -/

namespace Sys2Proof.Machine

/-- Flipping one pixel changes that pixel and no other. -/
theorem Screen.pixel_flip (d : Screen) {j : Nat} (hj : j < 2048) (k : Nat) :
    Screen.pixel (Screen.flip d j) k = (Screen.pixel d k ^^ decide (k = j)) := by
  have hj' : j / 64 < 32 := by omega
  unfold Screen.pixel Screen.flip
  by_cases h : k / 64 = j / 64
  · rw [h]
    simp only [Vector.getElem?_setIfInBounds, hj', if_true, Option.getD_some, BitVec.getLsbD_xor,
      BitVec.getLsbD_twoPow]
    congr 1
    have : k % 64 < 64 := Nat.mod_lt _ (by omega)
    by_cases hk : k = j
    · subst hk; simp [this]
    · have : ¬ j % 64 = k % 64 := by omega
      simp [hk, this]
  · have hk : k ≠ j := by rintro rfl; exact h rfl
    simp [Ne.symm h, hk]

@[simp] theorem Screen.pixel_off (k : Nat) : Screen.pixel Screen.off k = false := by
  unfold Screen.pixel Screen.off
  by_cases h : k / 64 < 32
  · simp [h]
  · simp [h]

theorem Canvas.pixel_plot (c : Canvas) {k : Nat} (hk : k < 2048) (bit : Bool) (m : Nat) :
    Screen.pixel (c.plot k bit).disp m = (Screen.pixel c.disp m ^^ (bit && decide (m = k))) := by
  cases bit
  · simp [Canvas.plot]
  · simp [Canvas.plot, Screen.pixel_flip c.disp hk]

theorem Canvas.hit_plot (c : Canvas) (k : Nat) (bit : Bool) :
    (c.plot k bit).hit = (c.hit || (bit && Screen.pixel c.disp k)) := by
  cases bit <;> simp [Canvas.plot]

/-- The pixels after one sprite row: the columns of the row up to the right edge are XORed with the sprite bits. -/
theorem Canvas.pixel_drawBits (b : Byte) {row x0 : Nat} (hr : row < 32) {js : List Nat}
    (hs : js.Pairwise (· < ·)) (c : Canvas) {px py : Nat} (hx : px < 64) :
    Screen.pixel (Canvas.drawBits b row x0 js c).disp (py * 64 + px) =
      (Screen.pixel c.disp (py * 64 + px) ^^
        decide (py = row ∧ x0 ≤ px ∧ px - x0 ∈ js ∧ b.getLsbD (7 - (px - x0)) = true)) := by
  induction js generalizing c with
  | nil => simp [Canvas.drawBits]
  | cons j js ih =>
    rw [List.pairwise_cons] at hs
    rw [Canvas.drawBits]
    split
    · rename_i he
      have : ¬ (py = row ∧ x0 ≤ px ∧ px - x0 ∈ j :: js ∧ b.getLsbD (7 - (px - x0)) = true) := by
        rintro ⟨-, h1, h2, -⟩
        have : j ≤ px - x0 := by
          rcases List.mem_cons.1 h2 with h | h
          · omega
          · exact Nat.le_of_lt (hs.1 _ h)
        simp only [dispW] at he; omega
      simp only [this, decide_false, Bool.xor_false]
    · rename_i he
      have hk : row * 64 + (x0 + j) < 2048 := by simp only [dispW] at he; omega
      have hlt : x0 + j < 64 := by simp only [dispW] at he; omega
      have hm : py * 64 + px = row * 64 + (x0 + j) ↔ py = row ∧ px = x0 + j := by omega
      rw [ih hs.2, show dispW = 64 from rfl, Canvas.pixel_plot c hk, Bool.xor_assoc]
      congr 1
      by_cases h : py = row ∧ px = x0 + j
      · obtain ⟨rfl, rfl⟩ := h
        have hn : ¬ (j ∈ js) := fun hmem => Nat.lt_irrefl _ (hs.1 _ hmem)
        simp [hn]
      · have hb : decide (py * 64 + px = row * 64 + (x0 + j)) = false := by simp [hm, h]
        rw [hb, Bool.and_false, Bool.false_xor, decide_eq_decide, List.mem_cons]
        constructor
        · rintro ⟨h1, h2, h3, h4⟩; exact ⟨h1, h2, .inr h3, h4⟩
        · rintro ⟨h1, h2, h3 | h3, h4⟩
          · exact absurd ⟨h1, by omega⟩ h
          · exact ⟨h1, h2, h3, h4⟩

/-- The collision after one sprite row: a set sprite bit on a visible column met a set pixel. -/
theorem Canvas.hit_drawBits (b : Byte) {row x0 : Nat} (hr : row < 32) {js : List Nat}
    (hs : js.Pairwise (· < ·)) (c : Canvas) :
    (Canvas.drawBits b row x0 js c).hit = true ↔
      c.hit = true ∨ ∃ px, px < 64 ∧ x0 ≤ px ∧ px - x0 ∈ js ∧ b.getLsbD (7 - (px - x0)) = true ∧
        Screen.pixel c.disp (row * 64 + px) = true := by
  induction js generalizing c with
  | nil => simp [Canvas.drawBits]
  | cons j js ih =>
    rw [List.pairwise_cons] at hs
    rw [Canvas.drawBits]
    split
    · rename_i he
      constructor
      · exact .inl
      · rintro (h | ⟨px, hx, h1, h2, -⟩)
        · exact h
        · exfalso
          have : j ≤ px - x0 := by
            rcases List.mem_cons.1 h2 with h | h
            · omega
            · exact Nat.le_of_lt (hs.1 _ h)
          simp only [dispW] at he; omega
    · rename_i he
      have hlt : x0 + j < 64 := by simp only [dispW] at he; omega
      have hk : row * 64 + (x0 + j) < 2048 := by omega
      rw [ih hs.2, show dispW = 64 from rfl, Canvas.hit_plot, Bool.or_eq_true, Bool.and_eq_true, or_assoc]
      refine or_congr_right ?_
      constructor
      · rintro (⟨h1, h2⟩ | ⟨px, hx, h1, h2, h3, h4⟩)
        · exact ⟨x0 + j, hlt, by omega, by simp, by rwa [Nat.add_sub_cancel_left], h2⟩
        · rw [Canvas.pixel_plot c hk] at h4
          have hne : ¬ row * 64 + px = row * 64 + (x0 + j) := by
            have := hs.1 _ h2; omega
          simp only [hne, decide_false, Bool.and_false, Bool.xor_false] at h4
          exact ⟨px, hx, h1, by simp [h2], h3, h4⟩
      · rintro ⟨px, hx, h1, h2, h3, h4⟩
        rcases List.mem_cons.1 h2 with h | h
        · have : px = x0 + j := by omega
          subst this
          exact .inl ⟨by rwa [Nat.add_sub_cancel_left] at h3, h4⟩
        · refine .inr ⟨px, hx, h1, h, h3, ?_⟩
          rw [Canvas.pixel_plot c hk]
          have hne : ¬ row * 64 + px = row * 64 + (x0 + j) := by
            have := hs.1 _ h; omega
          simp only [hne, decide_false, Bool.and_false, Bool.xor_false, h4]

theorem mem_columns (j : Nat) : j ∈ [0, 1, 2, 3, 4, 5, 6, 7] ↔ j < 8 := by
  simp only [List.mem_cons, List.not_mem_nil, or_false]; omega

/-- The bit of a sprite that falls on column `px` of its row `r`, where column and row lie inside the sprite. -/
def spriteBit (bytes : List Byte) (x0 px r : Nat) : Bool :=
  decide (x0 ≤ px ∧ px - x0 < 8 ∧ r < bytes.length) && (bytes.getD r 0).getLsbD (7 - (px - x0))

/-- The pixels after a sprite draw: each pixel is XORed with the sprite bit that falls on it (R201). -/
theorem Canvas.pixel_drawRows {x0 row : Nat} {bs : List Byte} (hr : row + bs.length ≤ 32) (c : Canvas)
    {px py : Nat} (hx : px < 64) :
    Screen.pixel (Canvas.drawRows x0 row bs c).disp (py * 64 + px) =
      (Screen.pixel c.disp (py * 64 + px) ^^ (decide (row ≤ py) && spriteBit bs x0 px (py - row))) := by
  induction bs generalizing row c with
  | nil => simp [Canvas.drawRows, spriteBit]
  | cons b bs ih =>
    simp only [List.length_cons] at hr
    rw [Canvas.drawRows, ih (by omega), Canvas.pixel_drawBits b (by omega) (by decide) c hx, Bool.xor_assoc]
    congr 1
    simp only [mem_columns]
    by_cases h : py = row
    · subst h
      have h1 : ¬ (py + 1 ≤ py) := by omega
      simp [spriteBit, h1, Bool.and_assoc]
    · by_cases h2 : row ≤ py
      · have h3 : row + 1 ≤ py := by omega
        have h4 : py - row = (py - (row + 1)) + 1 := by omega
        simp only [h, false_and, decide_false, Bool.false_xor, h2, h3, decide_true, Bool.true_and, spriteBit, h4,
          List.length_cons, List.getD_cons_succ, Nat.add_lt_add_iff_right]
      · have h3 : ¬ row + 1 ≤ py := by omega
        simp [h, h2, h3]

/-- The collision of a sprite draw: a set sprite bit fell on a visible pixel that was set before the draw (R201). -/
theorem Canvas.hit_drawRows {x0 row : Nat} {bs : List Byte} (hr : row + bs.length ≤ 32) (c : Canvas) :
    (Canvas.drawRows x0 row bs c).hit = true ↔
      c.hit = true ∨ ∃ px py, px < 64 ∧ row ≤ py ∧ spriteBit bs x0 px (py - row) = true ∧
        Screen.pixel c.disp (py * 64 + px) = true := by
  induction bs generalizing row c with
  | nil => simp [Canvas.drawRows, spriteBit]
  | cons b bs ih =>
    simp only [List.length_cons] at hr
    rw [Canvas.drawRows, ih (by omega), Canvas.hit_drawBits b (by omega) (by decide), or_assoc]
    refine or_congr_right ?_
    simp only [mem_columns]
    constructor
    · rintro (⟨px, hx, h1, h2, h3, h4⟩ | ⟨px, py, hx, h1, h2, h3⟩)
      · exact ⟨px, row, hx, Nat.le_refl _, by simp [spriteBit, h1, h2, h3], h4⟩
      · refine ⟨px, py, hx, by omega, ?_, ?_⟩
        · have h4 : py - row = (py - (row + 1)) + 1 := by omega
          simpa only [spriteBit, h4, List.length_cons, List.getD_cons_succ, Nat.add_lt_add_iff_right] using h2
        · rw [Canvas.pixel_drawBits b (by omega) (by decide) c hx] at h3
          have : ¬ py = row := by omega
          simpa [this] using h3
    · rintro ⟨px, py, hx, h1, h2, h3⟩
      by_cases h : py = row
      · subst h
        simp only [spriteBit, Nat.sub_self, List.getD_cons_zero, Bool.and_eq_true, decide_eq_true_eq] at h2
        exact .inl ⟨px, hx, h2.1.1, h2.1.2.1, h2.2, h3⟩
      · refine .inr ⟨px, py, hx, by omega, ?_, ?_⟩
        · have h4 : py - row = (py - (row + 1)) + 1 := by omega
          simpa only [spriteBit, h4, List.length_cons, List.getD_cons_succ, Nat.add_lt_add_iff_right] using h2
        · rw [Canvas.pixel_drawBits b (by omega) (by decide) c hx]
          simpa [h] using h3

/-- The rows that are drawn fit on the display (R201). -/
theorem State.spriteRows_fit (s : State) (y : Reg) (n : Nat) : s.spriteY y + s.spriteRows y n ≤ 32 := by
  have : s.spriteY y < 32 := Nat.mod_lt _ (by decide)
  simp only [State.spriteRows, dispH]; omega

end Sys2Proof.Machine
end

