-- ==== Sys2Proof/Laws/Exec.lean ====
section
/-! SUPPORT. The laws of the shared parts of the meanings and of the Step: how an execute phase ends, skips, result and flag, the
stack, the fetch, and the end of a Step. -/

namespace Sys2Proof.Machine

/-! ### How an execute phase ends -/

@[simp] theorem State.done_eq (s : State) : s.done = .next (s.setResult .ok) := rfl

@[simp] theorem State.raise_eq (s : State) (r : Result) : s.raise r = .next (s.setResult r) := rfl

theorem State.skipIf_eq (s : State) (c : Bool) :
    s.skipIf c = .next ((s.setPc (if c then s.pc + 2 else s.pc)).setResult .ok) := by
  cases c <;> rfl

theorem State.setResult_self (s : State) : s.setResult s.result = s := rfl

/-! ### Result and flag -/

theorem State.readV_writeResultFlag (s : State) (x z : Reg) (res flag : Byte) :
    (s.writeResultFlag x res flag).readV z = if z = vf then flag else if z = x then res else s.readV z := by
  simp only [State.writeResultFlag, State.readV_writeV]

theorem flagByte_eq (b : Bool) : flagByte b = if b then 1 else 0 := rfl

/-! ### Calls and returns -/

theorem execCall_cases (nnn : Addr) (s : State) :
    (s.sp < s.cfg.stackDepth ∧ execCall nnn s =
      .next ((((s.setStack (s.stack.set s.sp s.pc)).setSp (s.sp + 1)).setPc (Addr.zext nnn)).setResult .ok)) ∨
    (s.cfg.stackDepth ≤ s.sp ∧ execCall nnn s = .next (s.setResult .stackOverflow)) := by
  unfold execCall
  obtain ⟨h, e⟩ | ⟨h, e⟩ := s.push_cases s.pc
  · rw [e]; exact .inl ⟨h, rfl⟩
  · rw [e]; exact .inr ⟨h, rfl⟩

theorem execRet_cases (s : State) :
    (0 < s.sp ∧ execRet s = .next (((s.setSp (s.sp - 1)).setPc (s.stackEntry (s.sp - 1))).setResult .ok)) ∨
    (s.sp = 0 ∧ execRet s = .next (s.setResult .stackUnderflow)) := by
  unfold execRet
  obtain ⟨h, e⟩ | ⟨h, e⟩ := s.pop_cases
  · rw [e]; exact .inl ⟨h, rfl⟩
  · rw [e]; exact .inr ⟨h, rfl⟩

/-! ### The key wait -/

theorem execLdVxK_cases (x : Reg) (s : State) :
    (∃ k, leastKey s.keys = some k ∧ execLdVxK x s = .next ((s.writeV x (BitVec.ofNat 8 k)).setResult .ok)) ∨
    (s.keys = 0 ∧ execLdVxK x s = .next (((s.setWaitKey true).setWaitX x).setResult .ok)) := by
  unfold execLdVxK
  cases h : leastKey s.keys with
  | some k => exact .inl ⟨k, rfl, rfl⟩
  | none => exact .inr ⟨(leastKey_none_iff _).1 h, rfl⟩

theorem State.waitStep_cases (s : State) :
    (∃ k, leastKey s.keys = some k ∧
      s.waitStep = .next (((s.writeV s.waitX (BitVec.ofNat 8 k)).setWaitKey false).setResult .ok)) ∨
    (s.keys = 0 ∧ s.waitStep = .next (s.setResult .ok)) := by
  unfold State.waitStep
  cases h : leastKey s.keys with
  | some k => exact .inl ⟨k, rfl, rfl⟩
  | none => exact .inr ⟨(leastKey_none_iff _).1 h, rfl⟩

/-! ### The phases of a Step -/

theorem State.fetch_cases (s : State) :
    (s.fetchAddr = 0xFFF ∧ s.fetch = .error (.fetchOob memSize)) ∨
    (s.fetchAddr ≠ 0xFFF ∧ s.fetch = .ok (s.nextWord, s.setPc (s.pc + 2))) := by
  unfold State.fetch
  split
  · exact .inl ⟨by assumption, rfl⟩
  · exact .inr ⟨by assumption, rfl⟩

/-- What a Step does, by its first phase: the wait, the failed fetch, or the dispatch of the fetched word (R120). -/
theorem step_cases (s : State) :
    (s.waitKey = true ∧ step s = finishStep s.waitStep) ∨
    (s.waitKey = false ∧ s.fetchAddr = 0xFFF ∧ step s = .next (s.setResult (.fetchOob memSize)).endStep) ∨
    (s.waitKey = false ∧ s.fetchAddr ≠ 0xFFF ∧
      step s = finishStep ((s.setPc (s.pc + 2)).dispatch s.nextWord)) := by
  unfold step State.stepOnce
  cases h : s.waitKey with
  | true => exact .inl ⟨rfl, rfl⟩
  | false =>
    simp only [Bool.false_eq_true, if_false, State.runStep]
    obtain ⟨h1, e⟩ | ⟨h1, e⟩ := s.fetch_cases
    · rw [e]; exact .inr (.inl ⟨trivial, h1, rfl⟩)
    · rw [e]; exact .inr (.inr ⟨trivial, h1, rfl⟩)

@[simp] theorem State.endStep_eq (s : State) : s.endStep = (s.setRnd none).setDraws (s.draws + 1) := rfl

@[simp] theorem finishStep_next (s : State) : finishStep (.next s) = .next ((s.setRnd none).setDraws (s.draws + 1)) := rfl

/-- A run of `k + 1` steps is a step and a run of `k` steps. -/
theorem run_of_step {M : Host.Core} {s t : M.State} (h : M.step s = .next t) (k : Nat) : M.run (k + 1) s = M.run k t := by
  simp only [Host.Core.run, h]

end Sys2Proof.Machine
end

