-- ==== Sys2Proof/Laws/PerInstr.lean ====
section
/-! SUPPORT. Statements about every instruction as syntax, one lemma for each constructor. -/

namespace Sys2Proof.Laws.RowOfEncoding

/-- The encoding of an instruction selects the row of the opcode map that the instruction belongs to (R95). -/
def Statement (i : Instr) : Prop := i.row.selects (encode i) = true

theorem cls : Statement (.cls) := by unfold Statement; decide

theorem ret : Statement (.ret) := by unfold Statement; decide

theorem jp (nnn : Addr) : Statement (.jp nnn) := by
  simp only [Statement, Instr.row, OpcodeRow.selects, encode, and_maskOp, fieldOp_packNnn]; decide

theorem call (nnn : Addr) : Statement (.call nnn) := by
  simp only [Statement, Instr.row, OpcodeRow.selects, encode, and_maskOp, fieldOp_packNnn]; decide

theorem seImm (x : Reg) (kk : Byte) : Statement (.seImm x kk) := by
  simp only [Statement, Instr.row, OpcodeRow.selects, encode, and_maskOp, fieldOp_packXkk]; decide

theorem sneImm (x : Reg) (kk : Byte) : Statement (.sneImm x kk) := by
  simp only [Statement, Instr.row, OpcodeRow.selects, encode, and_maskOp, fieldOp_packXkk]; decide

theorem seReg (x : Reg) (y : Reg) : Statement (.seReg x y) := by
  simp only [Statement, Instr.row, OpcodeRow.selects, encode, and_maskOpN, fieldOp_pack, fieldN_pack]; decide

theorem ldImm (x : Reg) (kk : Byte) : Statement (.ldImm x kk) := by
  simp only [Statement, Instr.row, OpcodeRow.selects, encode, and_maskOp, fieldOp_packXkk]; decide

theorem addImm (x : Reg) (kk : Byte) : Statement (.addImm x kk) := by
  simp only [Statement, Instr.row, OpcodeRow.selects, encode, and_maskOp, fieldOp_packXkk]; decide

theorem ldReg (x : Reg) (y : Reg) : Statement (.ldReg x y) := by
  simp only [Statement, Instr.row, OpcodeRow.selects, encode, and_maskOpN, fieldOp_pack, fieldN_pack]; decide

theorem orReg (x : Reg) (y : Reg) : Statement (.orReg x y) := by
  simp only [Statement, Instr.row, OpcodeRow.selects, encode, and_maskOpN, fieldOp_pack, fieldN_pack]; decide

theorem andReg (x : Reg) (y : Reg) : Statement (.andReg x y) := by
  simp only [Statement, Instr.row, OpcodeRow.selects, encode, and_maskOpN, fieldOp_pack, fieldN_pack]; decide

theorem xorReg (x : Reg) (y : Reg) : Statement (.xorReg x y) := by
  simp only [Statement, Instr.row, OpcodeRow.selects, encode, and_maskOpN, fieldOp_pack, fieldN_pack]; decide

theorem addReg (x : Reg) (y : Reg) : Statement (.addReg x y) := by
  simp only [Statement, Instr.row, OpcodeRow.selects, encode, and_maskOpN, fieldOp_pack, fieldN_pack]; decide

theorem subReg (x : Reg) (y : Reg) : Statement (.subReg x y) := by
  simp only [Statement, Instr.row, OpcodeRow.selects, encode, and_maskOpN, fieldOp_pack, fieldN_pack]; decide

theorem shr (x : Reg) (y : Reg) : Statement (.shr x y) := by
  simp only [Statement, Instr.row, OpcodeRow.selects, encode, and_maskOpN, fieldOp_pack, fieldN_pack]; decide

theorem subn (x : Reg) (y : Reg) : Statement (.subn x y) := by
  simp only [Statement, Instr.row, OpcodeRow.selects, encode, and_maskOpN, fieldOp_pack, fieldN_pack]; decide

theorem shl (x : Reg) (y : Reg) : Statement (.shl x y) := by
  simp only [Statement, Instr.row, OpcodeRow.selects, encode, and_maskOpN, fieldOp_pack, fieldN_pack]; decide

theorem sneReg (x : Reg) (y : Reg) : Statement (.sneReg x y) := by
  simp only [Statement, Instr.row, OpcodeRow.selects, encode, and_maskOpN, fieldOp_pack, fieldN_pack]; decide

theorem ldI (nnn : Addr) : Statement (.ldI nnn) := by
  simp only [Statement, Instr.row, OpcodeRow.selects, encode, and_maskOp, fieldOp_packNnn]; decide

theorem jpV0 (nnn : Addr) : Statement (.jpV0 nnn) := by
  simp only [Statement, Instr.row, OpcodeRow.selects, encode, and_maskOp, fieldOp_packNnn]; decide

theorem rnd (x : Reg) (kk : Byte) : Statement (.rnd x kk) := by
  simp only [Statement, Instr.row, OpcodeRow.selects, encode, and_maskOp, fieldOp_packXkk]; decide

theorem drw (x : Reg) (y : Reg) (n : Nat) : Statement (.drw x y n) := by
  simp only [Statement, Instr.row, OpcodeRow.selects, encode, and_maskOp, fieldOp_pack]; decide

theorem skp (x : Reg) : Statement (.skp x) := by
  simp only [Statement, Instr.row, OpcodeRow.selects, encode, and_maskOpKk, fieldOp_packXkk, fieldKk_packXkk]; decide

theorem sknp (x : Reg) : Statement (.sknp x) := by
  simp only [Statement, Instr.row, OpcodeRow.selects, encode, and_maskOpKk, fieldOp_packXkk, fieldKk_packXkk]; decide

theorem ldVxDt (x : Reg) : Statement (.ldVxDt x) := by
  simp only [Statement, Instr.row, OpcodeRow.selects, encode, and_maskOpKk, fieldOp_packXkk, fieldKk_packXkk]; decide

theorem ldVxK (x : Reg) : Statement (.ldVxK x) := by
  simp only [Statement, Instr.row, OpcodeRow.selects, encode, and_maskOpKk, fieldOp_packXkk, fieldKk_packXkk]; decide

theorem ldDtVx (x : Reg) : Statement (.ldDtVx x) := by
  simp only [Statement, Instr.row, OpcodeRow.selects, encode, and_maskOpKk, fieldOp_packXkk, fieldKk_packXkk]; decide

theorem ldStVx (x : Reg) : Statement (.ldStVx x) := by
  simp only [Statement, Instr.row, OpcodeRow.selects, encode, and_maskOpKk, fieldOp_packXkk, fieldKk_packXkk]; decide

theorem addI (x : Reg) : Statement (.addI x) := by
  simp only [Statement, Instr.row, OpcodeRow.selects, encode, and_maskOpKk, fieldOp_packXkk, fieldKk_packXkk]; decide

theorem ldF (x : Reg) : Statement (.ldF x) := by
  simp only [Statement, Instr.row, OpcodeRow.selects, encode, and_maskOpKk, fieldOp_packXkk, fieldKk_packXkk]; decide

theorem ldB (x : Reg) : Statement (.ldB x) := by
  simp only [Statement, Instr.row, OpcodeRow.selects, encode, and_maskOpKk, fieldOp_packXkk, fieldKk_packXkk]; decide

theorem stRegs (x : Reg) : Statement (.stRegs x) := by
  simp only [Statement, Instr.row, OpcodeRow.selects, encode, and_maskOpKk, fieldOp_packXkk, fieldKk_packXkk]; decide

theorem ldRegs (x : Reg) : Statement (.ldRegs x) := by
  simp only [Statement, Instr.row, OpcodeRow.selects, encode, and_maskOpKk, fieldOp_packXkk, fieldKk_packXkk]; decide

end Sys2Proof.Laws.RowOfEncoding
end

