-- ==== Sys2Proof/Tests/Slice0.lean ====
section
/-! SUPPORT. The model's own tests: well-formedness, decoding of words written out from R95, single Steps with the results that the
vectors of spec/95_test_vectors.md give (the id is in each comment), and a witness for the hypotheses of each statement. -/

namespace Sys2Proof.Tests

open Sys2Proof.Machine

/-! ### Well-formedness (R93): the one check refuses an ill-formed term -/

theorem test_wf_refuses_sixteen_rows : (Instr.drw 0 0 16).wf = false := by decide

theorem test_wf_admits_fifteen_rows : (Instr.drw 15 15 15).wf = true := by decide

/-! ### Decoding: words written out from the patterns of R95 -/

theorem test_decode_fixed :
    decode 0x00E0#16 = .ok .cls ∧
    decode 0x00EE#16 = .ok .ret := by decide

theorem test_decode_jumps :
    decode 0x1ABC#16 = .ok (.jp 0xABC) ∧
    decode 0x2DEF#16 = .ok (.call 0xDEF) ∧
    decode 0xB2FE#16 = .ok (.jpV0 0x2FE) := by decide

theorem test_decode_skips :
    decode 0x3310#16 = .ok (.seImm 3 0x10) ∧
    decode 0x4AB5#16 = .ok (.sneImm 10 0xB5) ∧
    decode 0x5120#16 = .ok (.seReg 1 2) ∧
    decode 0x9F80#16 = .ok (.sneReg 15 8) := by decide

theorem test_decode_load_immediate :
    decode 0x6234#16 = .ok (.ldImm 2 0x34) ∧
    decode 0x7103#16 = .ok (.addImm 1 0x03) ∧
    decode 0xC1F0#16 = .ok (.rnd 1 0xF0) := by decide

theorem test_decode_two_registers :
    decode 0x8120#16 = .ok (.ldReg 1 2) ∧
    decode 0x8121#16 = .ok (.orReg 1 2) ∧
    decode 0x8342#16 = .ok (.andReg 3 4) ∧
    decode 0x8563#16 = .ok (.xorReg 5 6) ∧
    decode 0x8784#16 = .ok (.addReg 7 8) ∧
    decode 0x89A5#16 = .ok (.subReg 9 10) ∧
    decode 0x8BC6#16 = .ok (.shr 11 12) ∧
    decode 0x8DE7#16 = .ok (.subn 13 14) ∧
    decode 0x8F0E#16 = .ok (.shl 15 0) := by decide

theorem test_decode_index :
    decode 0xA234#16 = .ok (.ldI 0x234) ∧
    decode 0xF11E#16 = .ok (.addI 1) ∧
    decode 0xF229#16 = .ok (.ldF 2) ∧
    decode 0xF333#16 = .ok (.ldB 3) ∧
    decode 0xFF55#16 = .ok (.stRegs 15) ∧
    decode 0xF065#16 = .ok (.ldRegs 0) := by decide

theorem test_decode_draw :
    decode 0xD12A#16 = .ok (.drw 1 2 10) ∧
    decode 0xDF0F#16 = .ok (.drw 15 0 15) := by decide

theorem test_decode_keys_and_timers :
    decode 0xE19E#16 = .ok (.skp 1) ∧
    decode 0xE2A1#16 = .ok (.sknp 2) ∧
    decode 0xF307#16 = .ok (.ldVxDt 3) ∧
    decode 0xF40A#16 = .ok (.ldVxK 4) ∧
    decode 0xF515#16 = .ok (.ldDtVx 5) ∧
    decode 0xF618#16 = .ok (.ldStVx 6) := by decide

/-- The unknown opcodes of spec/95_test_vectors.md. -/
theorem test_decode_unknown :
    decode 0x0000#16 = .error (.unknownOpcode 0x0000) ∧ decode 0x0123#16 = .error (.unknownOpcode 0x0123) ∧
    decode 0x00E1#16 = .error (.unknownOpcode 0x00E1) ∧ decode 0x00EF#16 = .error (.unknownOpcode 0x00EF) ∧
    decode 0x0FFF#16 = .error (.unknownOpcode 0x0FFF) ∧ decode 0x5121#16 = .error (.unknownOpcode 0x5121) ∧
    decode 0x512F#16 = .error (.unknownOpcode 0x512F) ∧ decode 0x8128#16 = .error (.unknownOpcode 0x8128) ∧
    decode 0x812D#16 = .error (.unknownOpcode 0x812D) ∧ decode 0x812F#16 = .error (.unknownOpcode 0x812F) ∧
    decode 0x9121#16 = .error (.unknownOpcode 0x9121) ∧ decode 0xE000#16 = .error (.unknownOpcode 0xE000) ∧
    decode 0xE19F#16 = .error (.unknownOpcode 0xE19F) ∧ decode 0xE1A0#16 = .error (.unknownOpcode 0xE1A0) ∧
    decode 0xF100#16 = .error (.unknownOpcode 0xF100) ∧ decode 0xF175#16 = .error (.unknownOpcode 0xF175) ∧
    decode 0xF1FF#16 = .error (.unknownOpcode 0xF1FF) := by decide

/-- Their accepted neighbours. -/
theorem test_decode_neighbours :
    decodeTableWord 16 0x00E0 = some (.cls) ∧
    decodeTableWord 16 0x00EE = some (.ret) ∧
    decodeTableWord 16 0x5120 = some (.seReg 1 2) ∧
    decodeTableWord 16 0x8127 = some (.subn 1 2) ∧
    decodeTableWord 16 0x812E = some (.shl 1 2) ∧
    decodeTableWord 16 0x9120 = some (.sneReg 1 2) ∧
    decodeTableWord 16 0xE19E = some (.skp 1) ∧
    decodeTableWord 16 0xE1A1 = some (.sknp 1) ∧
    decodeTableWord 16 0xF107 = some (.ldVxDt 1) ∧
    decodeTableWord 16 0xF165 = some (.ldRegs 1) := by decide

/-- S12: the fields of 0xD12A and 0x8F37. -/
theorem test_fields :
    fieldNnn 0xD12A = 0x12A ∧ fieldKk 0xD12A = 0x2A ∧ fieldN 0xD12A = 0xA ∧ fieldX 0xD12A = 1 ∧ fieldY 0xD12A = 2 ∧
    fieldNnn 0x8F37 = 0xF37 ∧ fieldKk 0x8F37 = 0x37 ∧ fieldN 0x8F37 = 7 ∧ fieldX 0x8F37 = 15 ∧ fieldY 0x8F37 = 3 := by
  decide

/-- S13: the first byte is the high byte. -/
theorem test_big_endian : decodeBytes [0x12, 0x34, 0x00] = .ok (.jp 0x234, [0x00]) := by decide

theorem test_decode_truncated : decodeBytes [0x12] = .error .truncated := by decide

/-! ### Single Steps -/

/-- What one Step answers from Reset with a word at 0x200 and some changes made. -/
def after {α : Type} (w : Word) (prep : State → State) (look : State → α) : Option α :=
  match step (prep (State.reset.writeBytes 0x200 [hiByte w, loByte w])) with
  | .next t => some (look t)
  | _ => none

/-- Register writes, the register numbers as numerals. -/
def regs (l : List (Reg × Byte)) (s : State) : State := l.foldl (fun s p => s.writeV p.1 p.2) s

/-- The parameter SHIFT_SRC_VY = true. -/
def shiftVy (s : State) : State := { s with cfg := { s.cfg with shiftSrcVy := true } }

/-- The columns of a display row that are on, as a number: bit `x` is column `x`. -/
def rowBits (s : State) (y : Nat) : Nat := (s.disp[y]?.getD 0).toNat

/-- A1. -/
theorem test_add_carry :
    after 0x8124 (regs [(1, 0xF0), (2, 0x20)])
      (fun t => (t.readV 1, t.readV 15, t.pc, t.result)) = some (0x10, 1, 0x0202, .ok) := by decide

/-- A6. -/
theorem test_add_vf_destination :
    after 0x8F14 (regs [(15, 0xF0), (1, 0x20)])
      (fun t => (t.readV 15, t.pc, t.result)) = some (1, 0x0202, .ok) := by decide

/-- A9. -/
theorem test_sub_borrow :
    after 0x8125 (regs [(1, 0x05), (2, 0x07)])
      (fun t => (t.readV 1, t.readV 15, t.pc, t.result)) = some (0xFE, 0, 0x0202, .ok) := by decide

/-- A11. -/
theorem test_sub_equal :
    after 0x8125 (regs [(1, 0x07), (2, 0x07)])
      (fun t => (t.readV 1, t.readV 15, t.pc, t.result)) = some (0, 1, 0x0202, .ok) := by decide

/-- A16. -/
theorem test_subn_borrow :
    after 0x8127 (regs [(1, 0x07), (2, 0x05)])
      (fun t => (t.readV 1, t.readV 15, t.pc, t.result)) = some (0xFE, 0, 0x0202, .ok) := by decide

/-- A15. -/
theorem test_subn_no_borrow :
    after 0x8127 (regs [(1, 0x05), (2, 0x07)])
      (fun t => (t.readV 1, t.readV 15, t.pc, t.result)) = some (2, 1, 0x0202, .ok) := by decide

/-- A18. -/
theorem test_shr_vx :
    after 0x8126 (regs [(1, 0x05), (2, 0xF0)])
      (fun t => (t.readV 1, t.readV 2, t.readV 15, t.pc, t.result)) = some (2, 0xF0, 1, 0x0202, .ok) := by decide

/-- A22. -/
theorem test_shr_vy :
    after 0x8126 (fun s => shiftVy (regs [(1, 0x05), (2, 0xF0)] s))
      (fun t => (t.readV 1, t.readV 2, t.readV 15, t.pc, t.result)) = some (0x78, 0xF0, 0, 0x0202, .ok) := by decide

/-- A23. -/
theorem test_shl_vx :
    after 0x812E (regs [(1, 0x81), (2, 0x01)])
      (fun t => (t.readV 1, t.readV 15, t.pc, t.result)) = some (2, 1, 0x0202, .ok) := by decide

/-- A26. -/
theorem test_shl_vf_destination :
    after 0x8F2E (regs [(15, 0x81)])
      (fun t => (t.readV 15, t.pc, t.result)) = some (1, 0x0202, .ok) := by decide

/-- A28. -/
theorem test_or_keeps_vf :
    after 0x8121 (regs [(1, 0xF0), (2, 0x0F), (15, 0x07)])
      (fun t => (t.readV 1, t.readV 15, t.pc, t.result)) = some (0xFF, 7, 0x0202, .ok) := by decide

/-- A29. -/
theorem test_and_keeps_vf :
    after 0x8122 (regs [(1, 0xF3), (2, 0x3C), (15, 0x07)])
      (fun t => (t.readV 1, t.readV 15, t.pc, t.result)) = some (0x30, 7, 0x0202, .ok) := by decide

/-- A30. -/
theorem test_xor_keeps_vf :
    after 0x8123 (regs [(1, 0xFF), (2, 0x0F), (15, 0x07)])
      (fun t => (t.readV 1, t.readV 15, t.pc, t.result)) = some (0xF0, 7, 0x0202, .ok) := by decide

/-- A32. -/
theorem test_ld_register :
    after 0x8120 (regs [(2, 0x5A)])
      (fun t => (t.readV 1, t.pc, t.result)) = some (0x5A, 0x0202, .ok) := by decide

/-- S1, A33. -/
theorem test_ld_immediate :
    after 0x6234 (id)
      (fun t => (t.readV 2, t.pc, t.result)) = some (0x34, 0x0202, .ok) := by decide

/-- A34. -/
theorem test_add_immediate_wraps :
    after 0x7103 (regs [(1, 0xFE), (15, 0x09)])
      (fun t => (t.readV 1, t.readV 15, t.pc, t.result)) = some (1, 9, 0x0202, .ok) := by decide

/-- A35. -/
theorem test_add_immediate_vf :
    after 0x7F01 (regs [(15, 0xFF)])
      (fun t => (t.readV 15, t.pc, t.result)) = some (0, 0x0202, .ok) := by decide

/-- A36. -/
theorem test_rnd_masked :
    after 0xC10F (fun s => s.setRnd (some 0xB7))
      (fun t => (t.readV 1, t.pc, t.result)) = some (7, 0x0202, .ok) := by decide

/-- A38. -/
theorem test_rnd_full_mask :
    after 0xC1FF (fun s => s.setRnd (some 0xB7))
      (fun t => (t.readV 1, t.pc, t.result)) = some (0xB7, 0x0202, .ok) := by decide

/-- C1. -/
theorem test_jp :
    after 0x1ABC (id)
      (fun t => (t.pc, t.result)) = some (0x0ABC, .ok) := by decide

/-- C3. -/
theorem test_call :
    after 0x2300 (id)
      (fun t => (t.pc, t.result, t.sp, t.stackEntry 0)) = some (0x0300, .ok, 1, 0x0202) := by decide

/-- C5. -/
theorem test_call_full :
    after 0x2300 (fun s => s.setSp 16)
      (fun t => (t.pc, t.result, t.sp, t.stackEntry 15)) = some (0x0202, .stackOverflow, 16, 0) := by decide

/-- C4. -/
theorem test_ret :
    after 0x00EE (fun s => (s.setStack (s.stack.set 0 0x0204)).setSp 1)
      (fun t => (t.pc, t.result, t.sp)) = some (0x0204, .ok, 0) := by decide

/-- C7. -/
theorem test_ret_empty :
    after 0x00EE (id)
      (fun t => (t.pc, t.result, t.sp)) = some (0x0202, .stackUnderflow, 0) := by decide

/-- C8. -/
theorem test_se_immediate_taken :
    after 0x3310 (regs [(3, 0x10)])
      (fun t => (t.pc, t.result)) = some (0x0204, .ok) := by decide

/-- C9. -/
theorem test_se_immediate_not_taken :
    after 0x3310 (regs [(3, 0x11)])
      (fun t => (t.pc, t.result)) = some (0x0202, .ok) := by decide

/-- C10. -/
theorem test_sne_immediate_not_taken :
    after 0x4310 (regs [(3, 0x10)])
      (fun t => (t.pc, t.result)) = some (0x0202, .ok) := by decide

/-- C11. -/
theorem test_sne_immediate_taken :
    after 0x4311 (regs [(3, 0x10)])
      (fun t => (t.pc, t.result)) = some (0x0204, .ok) := by decide

/-- C12. -/
theorem test_se_register_taken :
    after 0x5120 (regs [(1, 0x07), (2, 0x07)])
      (fun t => (t.pc, t.result)) = some (0x0204, .ok) := by decide

/-- C13. -/
theorem test_se_register_not_taken :
    after 0x5120 (regs [(1, 0x07), (2, 0x08)])
      (fun t => (t.pc, t.result)) = some (0x0202, .ok) := by decide

/-- C15. -/
theorem test_sne_register_taken :
    after 0x9120 (regs [(1, 0x07), (2, 0x08)])
      (fun t => (t.pc, t.result)) = some (0x0204, .ok) := by decide

/-- C16. -/
theorem test_sne_register_not_taken :
    after 0x9120 (regs [(1, 0x07), (2, 0x07)])
      (fun t => (t.pc, t.result)) = some (0x0202, .ok) := by decide

/-- C19. -/
theorem test_jp_v0_past_4k :
    after 0xBFFF (regs [(0, 0xFF)])
      (fun t => (t.pc, t.result)) = some (0x10FE, .ok) := by decide

/-- C20. -/
theorem test_jp_v0_ignores_vx :
    after 0xB2FE (regs [(0, 0xFF), (2, 0x55)])
      (fun t => (t.pc, t.result)) = some (0x03FD, .ok) := by decide

/-- C25. -/
theorem test_fetch_past_end :
    after 0x6001 (fun s => s.setPc 0x2FFF)
      (fun t => (t.pc, t.result, t.readV 0)) = some (0x2FFF, .fetchOob 0x1000, 0) := by decide

/-- C23, the skip at 0xFFE. -/
theorem test_fetch_wraps_pc :
    after 0x0000 (fun s => ((s.writeBytes 0xFFE [0x30, 0x00]).setPc 0xFFFE))
      (fun t => (t.pc, t.result)) = some (0x0002, .ok) := by decide

/-- 5121, a word that no row admits. -/
theorem test_unknown_opcode :
    after 0x5121 (id)
      (fun t => (t.pc, t.result)) = some (0x0202, .unknownOpcode 0x5121) := by decide

/-- S2, M1. -/
theorem test_ld_i :
    after 0xA234 (id)
      (fun t => (t.i, t.pc, t.result)) = some (0x0234, 0x0202, .ok) := by decide

/-- M3. -/
theorem test_add_i :
    after 0xF11E (fun s => (regs [(1, 0x01)] s).setI 0x0FFF)
      (fun t => (t.i, t.readV 15, t.pc, t.result)) = some (0x1000, 0, 0x0202, .ok) := by decide

/-- M4. -/
theorem test_add_i_wraps :
    after 0xF11E (fun s => (regs [(1, 0x02)] s).setI 0xFFFF)
      (fun t => (t.i, t.pc, t.result)) = some (0x0001, 0x0202, .ok) := by decide

/-- M5. -/
theorem test_ld_f :
    after 0xF129 (regs [(1, 0x0A)])
      (fun t => (t.i, t.pc, t.result)) = some (0x0032, 0x0202, .ok) := by decide

/-- M6. -/
theorem test_ld_f_no_glyph :
    after 0xF129 (regs [(1, 0xFF)])
      (fun t => (t.i, t.pc, t.result)) = some (0x04FB, 0x0202, .ok) := by decide

/-- M13. -/
theorem test_ld_b_low_base :
    after 0xF133 (fun s => (regs [(1, 0x2F)] s).setI 0x1300)
      (fun t => (t.readBytes 0x300 3, t.i, t.pc, t.result)) = some ([0, 4, 7], 0x1300, 0x0202, .ok) := by decide

/-- M15. -/
theorem test_ld_b_past_end :
    after 0xF133 (fun s => (regs [(1, 0x7B)] s).setI 0x0FFE)
      (fun t => (t.pc, t.result, t.readBytes 0xFFE 2)) = some (0x0202, .dataOob 0x1000, [0, 0]) := by decide

/-- M16, M17. -/
theorem test_store_block :
    after 0xF255 (fun s => (regs [(0, 0x11), (1, 0x22), (2, 0x33)] (s.writeByte 0x303 0xEE)).setI 0x0300)
      (fun t => (t.readBytes 0x300 4, t.i, t.pc, t.result)) = some ([0x11, 0x22, 0x33, 0xEE], 0x0300, 0x0202, .ok) := by decide

/-- M20. -/
theorem test_store_block_to_end :
    after 0xF155 (fun s => (regs [(0, 0x11), (1, 0x22)] s).setI 0x0FFE)
      (fun t => (t.readBytes 0xFFE 2, t.pc, t.result)) = some ([0x11, 0x22], 0x0202, .ok) := by decide

/-- M21. -/
theorem test_load_block :
    after 0xF165 (fun s => (regs [(2, 0x77)] (s.writeBytes 0x300 [0xAA, 0xBB, 0xCC])).setI 0x0300)
      (fun t => (t.readV 0, t.readV 1, t.readV 2, t.i, t.pc, t.result)) = some (0xAA, 0xBB, 0x77, 0x0300, 0x0202, .ok) := by decide

/-- M23. -/
theorem test_load_block_past_end :
    after 0xF165 (fun s => (regs [(0, 0x01), (1, 0x02)] (s.writeByte 0xFFF 0x5A)).setI 0x0FFF)
      (fun t => (t.pc, t.result, t.readV 0, t.readV 1)) = some (0x0202, .dataOob 0x1000, 1, 2) := by decide

/-- S3, G9. -/
theorem test_cls :
    after 0x00E0 (fun s => s.setDisp (Vector.replicate 32 (BitVec.allOnes 64)))
      (fun t => (t.disp == Screen.off, t.redraw, t.readV 15, t.pc, t.result)) = some (true, true, 0, 0x0202, .ok) := by decide

/-- G3. -/
theorem test_drw_clips :
    after 0xD123 (fun s => (regs [(1, 0x7C), (2, 0x7E), (15, 0x01)] (s.writeBytes 0x300 [0xFF, 0x81, 0xFF])).setI 0x0300)
      (fun t => (rowBits t 30, rowBits t 31, rowBits t 0, t.readV 15, t.redraw)) = some (0xF000000000000000, 0x1000000000000000, 0, 0, true) := by decide

/-- G2. -/
theorem test_drw_collision :
    after 0xD122 (fun s => ((regs [(1, 0x3E), (2, 0x1F)] (s.writeBytes 0x300 [0xF0, 0x90])).setI 0x0300).setDisp (Screen.flip s.disp 2047))
      (fun t => (rowBits t 31, t.readV 15, t.pc, t.result)) = some (0x4000000000000000, 1, 0x0202, .ok) := by decide

/-- G6. -/
theorem test_drw_past_end :
    after 0xD125 (fun s => (regs [(2, 0x1E), (15, 0x05)] (s.writeByte 0xFFF 0xC0)).setI 0x0FFF)
      (fun t => (t.pc, t.result, t.readV 15, t.redraw)) = some (0x0202, .dataOob 0x1000, 5, false) := by decide

/-- K3. -/
theorem test_skp_down :
    after 0xE19E (fun s => (regs [(1, 0x1A)] s).setKeys 0x0400)
      (fun t => (t.pc, t.result)) = some (0x0204, .ok) := by decide

/-- K2. -/
theorem test_skp_up :
    after 0xE19E (fun s => (regs [(1, 0x05)] s).setKeys 0xFFDF)
      (fun t => (t.pc, t.result)) = some (0x0202, .ok) := by decide

/-- K4. -/
theorem test_sknp_up :
    after 0xE1A1 (regs [(1, 0x05)])
      (fun t => (t.pc, t.result)) = some (0x0204, .ok) := by decide

/-- K5. -/
theorem test_sknp_down :
    after 0xE1A1 (fun s => (regs [(1, 0x05)] s).setKeys 0x0020)
      (fun t => (t.pc, t.result)) = some (0x0202, .ok) := by decide

/-- K6. -/
theorem test_ld_key_down :
    after 0xF10A (fun s => s.setKeys 0x0090)
      (fun t => (t.readV 1, t.waitKey, t.pc, t.result)) = some (4, false, 0x0202, .ok) := by decide

/-- K7, Step 1. -/
theorem test_ld_key_waits :
    after 0xF10A (id)
      (fun t => (t.waitKey, t.waitX, t.pc, t.result)) = some (true, 1, 0x0202, .ok) := by decide

/-- K7, Step 4. -/
theorem test_waiting_step_ends :
    after 0x61AA (fun s => (((s.setPc 0x0202).setWaitKey true).setWaitX 1).setKeys 0x0208)
      (fun t => (t.readV 1, t.waitKey, t.pc, t.result)) = some (3, false, 0x0202, .ok) := by decide

/-- K8. -/
theorem test_ld_vx_dt :
    after 0xF107 (fun s => s.setDt 0x3C)
      (fun t => (t.readV 1, t.dt, t.pc, t.result)) = some (0x3C, 0x3C, 0x0202, .ok) := by decide

/-- K9. -/
theorem test_ld_dt_vx :
    after 0xF115 (regs [(1, 0x3C)])
      (fun t => (t.dt, t.pc, t.result)) = some (0x3C, 0x0202, .ok) := by decide

/-- K10. -/
theorem test_ld_st_vx :
    after 0xF118 (regs [(1, 0x02)])
      (fun t => (t.st, t.pc, t.result)) = some (2, 0x0202, .ok) := by decide

/-- K12: a timer at zero stays there. -/
theorem test_timer_tick :
    ((State.reset.setDt 2).timerTick.dt, (State.reset.setSt 1).timerTick.st, State.reset.timerTick.st) = (1, 0, 0) := by decide

/-- L1: the font at Reset. -/
theorem test_reset_font :
    State.reset.readBytes 0 6 = [0xF0, 0x90, 0x90, 0x90, 0xF0, 0x20] ∧ State.reset.readByte 0x04F = 0x80 ∧
    State.reset.readByte 0x050 = 0 ∧ State.reset.readByte 0xFFF = 0 := by decide

/-- R62: font bytes with a low nibble set are no legal parameter; the default ones are (wit_inv). -/
theorem test_font_low_nibble : ¬ ({ Config.default with fontData := List.replicate 80 0xF1 } : Config).Legal := by
  unfold Config.Legal; decide

/-- A36 by the operation Step(rnd). -/
theorem test_step_rnd :
    (match (HostOp.step 0xB7).apply (State.reset.placeWord 0xC10F) with
      | .next t => some (t.readV 1, t.pc)
      | _ => none) = some (0x07, 0x0202) := by decide

/-- L2. -/
theorem test_load_program :
    (State.reset.loadProgram [0x62, 0x34]).readBytes 0x200 3 = [0x62, 0x34, 0] ∧
    (State.reset.loadProgram [0x62, 0x34]).result = .ok := by decide

/-- Writing back what an unlisted address reads as removes the cell (log 7). -/
theorem test_memory_form :
    ((State.reset.writeByte 0x300 5).writeByte 0x300 0).mem = [] ∧ (State.reset.writeByte 0 0xF0).mem = [] ∧
    ((State.reset.writeByte 0x301 5).writeByte 0x300 6).mem = [(0x300, 6), (0x301, 5)] := by decide

/-! ### Witnesses: states and operands that meet the hypotheses of each statement, at the edges of their ranges -/

/-- The reset state meets the invariant. -/
theorem wit_inv : State.reset.Inv := ⟨by unfold Config.Legal; decide, by decide, by decide, by decide⟩

/-- The reset state with another SP. -/
def atSp (n : Nat) : State := State.reset.setSp n

theorem wit_inv_atSp {n : Nat} (h : n ≤ 16) : (atSp n).Inv := ⟨wit_inv.cfgLegal, h, wit_inv.stackSize, wit_inv.memWf⟩

/-- The reset state with another I. -/
def atI (w : Word) : State := State.reset.setI w

theorem wit_inv_atI (w : Word) : (atI w).Inv := ⟨wit_inv.cfgLegal, wit_inv.spBound, wit_inv.stackSize, wit_inv.memWf⟩

/-- The state whose next word is `w`, at the entry point. -/
def atWord (w : Word) : State := State.reset.placeWord w

theorem wit_DecodeOfEncode : (Instr.drw 15 15 15).wf = true ∧ Instr.ret.wf = true := by decide

theorem wit_EncodeOfDecode : decode 0xDFFF#16 = .ok (.drw 15 15 15) ∧ decode 0xF065#16 = .ok (.ldRegs 0) := by decide

theorem wit_DecoderTotalOverOpcodeMap :
    decode (wordOfBytes 0xFF 0x65) = .ok (.ldRegs 15) ∧ decode (wordOfBytes 0xFF 0xFF) = .error (.unknownOpcode 0xFFFF) := by
  decide

theorem wit_OpcodeRowsDisjoint :
    ∃ r ∈ opcodeMap, r.selects 0x8FFE#16 = true := ⟨(Instr.shl 0 0).row, by decide, by decide⟩

theorem wit_ByteReadAfterWrite : State.reset.Inv ∧ 0xFFF < memSize ∧ 0 < memSize := ⟨wit_inv, by decide, by decide⟩

theorem wit_MemoryFormCanonical :
    State.reset.Inv ∧ ((State.reset.writeByte 0xFFF 5).writeByte 0xFFF 0).Inv ∧
    ∀ a, State.reset.readByte a = ((State.reset.writeByte 0xFFF 5).writeByte 0xFFF 0).readByte a :=
  ⟨wit_inv, ⟨wit_inv.cfgLegal, by decide, by decide, by decide⟩, fun _ => rfl⟩

theorem wit_StepRunsDecodedInstruction :
    (atWord 0x6234).waitKey = false ∧ (atWord 0x6234).fetchAddr ≠ 0xFFF ∧
    decode (atWord 0x6234).nextWord = .ok (.ldImm 2 0x34) := by decide

/-- The last address a word can be fetched from. -/
theorem wit_StepRunsDecodedInstruction_last :
    ((State.reset.setPc 0xFFFE).placeWord 0x6234).fetchAddr = 0xFFE ∧
    decode ((State.reset.setPc 0xFFFE).placeWord 0x6234).nextWord = .ok (.ldImm 2 0x34) := by decide

theorem wit_PlacedWordIsFetched :
    State.reset.Inv ∧ State.reset.fetchAddr ≠ 0xFFF ∧ (State.reset.withFetchWord 16 0xA234).nextWord = 0xA234 := 
  ⟨wit_inv, by decide, by decide⟩

theorem wit_UnknownOpcodeReported :
    State.reset.waitKey = false ∧ State.reset.fetchAddr ≠ 0xFFF ∧ ∀ r ∈ opcodeMap, r.selects State.reset.nextWord = false := by
  decide

theorem wit_FetchPastEndRepeats :
    (State.reset.setPc 0x2FFF).waitKey = false ∧ (State.reset.setPc 0x2FFF).fetchAddr = 0xFFF := by decide

/-- Both clauses: no key down, and the highest key alone. -/
theorem wit_WaitingStepSamplesKeys :
    (State.reset.setWaitKey true).waitKey = true ∧ (State.reset.setWaitKey true).keys = 0 ∧
    ((State.reset.setWaitKey true).setKeys 0x8000).keys.getLsbD 15 = true ∧
    ∀ j, j < 15 → ((State.reset.setWaitKey true).setKeys 0x8000).keys.getLsbD j = false := by decide

theorem wit_ControlStates :
    (atWord 0xF10A).waitKey = false ∧ (atWord 0xF10A).keys = 0 ∧ decode (atWord 0xF10A).nextWord = .ok (.ldVxK 1) ∧
    (State.reset.setWaitKey true).waitKey = true ∧ (State.reset.setPc 0x0FFF).fetchAddr = 0xFFF := by decide

/-- Both clauses of the call: the last free entry, and the full stack. -/
theorem wit_CallPushesReturnAddress :
    (atSp 15).Inv ∧ (atSp 15).sp < (atSp 15).cfg.stackDepth ∧ (atSp 16).Inv ∧ (atSp 16).sp = (atSp 16).cfg.stackDepth :=
  ⟨wit_inv_atSp (by decide), by decide, wit_inv_atSp (by decide), by decide⟩

theorem wit_ReturnPopsIntoPc : 0 < (atSp 1).sp ∧ 0 < (atSp 16).sp ∧ (atSp 0).sp = 0 := by decide

/-- The stack is filled by the calls. -/
theorem wit_NestedCallsReturnInReverse :
    State.reset.Inv ∧
    State.reset.sp + (List.replicate 8 (0x300 : Addr)).length + (List.replicate 8 (0x400 : Addr)).length ≤
      State.reset.cfg.stackDepth := ⟨wit_inv, by decide⟩

theorem wit_SkipMovesPcByTwoOrFour :
    (atWord 0x3300).waitKey = false ∧ (atWord 0x3300).fetchAddr ≠ 0xFFF ∧
    decode (atWord 0x3300).nextWord = .ok (.seImm 3 0) ∧ skipCondition (atWord 0x3300) (.seImm 3 0) = some true ∧
    skipCondition (atWord 0x3300) (.sneImm 3 0) = some false := by decide

/-- Both clauses: a named byte, and a state whose next word is RND V1, 0x0F. -/
theorem wit_RandomByteIsMasked :
    (State.reset.setRnd (some 0xB7)).rnd = some 0xB7 ∧ (atWord 0xC10F).waitKey = false ∧
    (atWord 0xC10F).fetchAddr ≠ 0xFFF ∧ decode (atWord 0xC10F).nextWord = .ok (.rnd 1 0x0F) := by decide

/-- SHIFT_SRC_VY false and true. -/
theorem wit_ShiftsByOne :
    5 = (if (regs [(1, 5), (2, 7)] State.reset).cfg.shiftSrcVy then (regs [(1, 5), (2, 7)] State.reset).readV 2
      else (regs [(1, 5), (2, 7)] State.reset).readV 1) ∧
    (shiftVy State.reset).cfg.shiftSrcVy = true ∧ State.reset.cfg.shiftSrcVy = false := by decide

theorem wit_FontAddressIsBasePlusFive : State.reset.Inv := wit_inv

/-- Both clauses: the last byte of memory, and one past it. -/
theorem wit_DecimalDigitsStored :
    (atI 0x0FFD).Inv ∧ (atI 0x0FFD).dataAddr 2 = 0xFFF ∧ (atI 0xFFFE).Inv ∧ (atI 0xFFFE).dataAddr 2 = 0x1000 :=
  ⟨wit_inv_atI _, by decide, wit_inv_atI _, by decide⟩

theorem wit_BlockStoreWritesRegisters :
    (atI 0x0FF0).Inv ∧ (atI 0x0FF0).dataAddr (15#4).toNat = 0xFFF ∧ (atI 0x0FFF).dataAddr (0#4).toNat = 0xFFF ∧
    (atI 0x0FF1).Inv ∧ (atI 0x0FF1).dataAddr (15#4).toNat = 0x1000 :=
  ⟨wit_inv_atI _, by decide, by decide, wit_inv_atI _, by decide⟩

theorem wit_BlockLoadReadsRegisters :
    (atI 0x0FF0).dataAddr (15#4).toNat ≤ 0xFFF ∧ (atI 0x0FFF).dataAddr (0#4).toNat ≤ 0xFFF ∧
    0xFFF < (atI 0x0FF1).dataAddr (15#4).toNat := by decide

theorem wit_StoreSeenByNextFetch :
    (atI 0x0200).Inv ∧ (atI 0x0200).dataAddr (1#4).toNat ≤ 0xFFF ∧ (0#4) < 1#4 ∧
    (atI 0x0200).fetchAddr = (atI 0x0200).dataAddr (0#4).toNat := ⟨wit_inv_atI _, by decide, by decide, by decide⟩

/-- Both clauses of the draw: a sprite whose last row is the last byte of memory, and one a row longer. -/
theorem wit_DrawXorsClippedSprite :
    (atI 0x0FF1).dataAddr ((atI 0x0FF1).spriteRows 1 15) = 0x1000 ∧
    0x1000 < (atI 0x0FF2).dataAddr ((atI 0x0FF2).spriteRows 1 15) := by decide

/-- Both clauses of VF: a sprite bit on a pixel that is on (glyph 0 at address 0), and a display that is off. -/
theorem wit_DrawXorsClippedSprite_flag :
    (State.reset.setDisp (Screen.flip Screen.off 0)).spriteAt 1 2 5 0 0 = true ∧
    (State.reset.setDisp (Screen.flip Screen.off 0)).pixel 0 = true ∧
    State.reset.spriteAt 1 2 5 0 0 = true ∧ State.reset.pixel 0 = false := by decide

theorem wit_DrawTwiceRestoresDisplay :
    (1 : Reg) ≠ 15 ∧ (2 : Reg) ≠ 15 ∧ State.reset.dataAddr (State.reset.spriteRows 2 5) ≤ 0x1000 ∧
    State.reset.spriteAt 1 2 5 3 0 = true := by decide

/-- A Step that runs CLS writes no ST; nor do a waiting Step and a failed fetch, whatever the word at PC is. -/
theorem wit_SoundTimerIsNeverRead :
    (atWord 0x00E0).waitKey = false ∧ (atWord 0x00E0).fetchAddr ≠ 0xFFF ∧ decode (atWord 0x00E0).nextWord = .ok .cls ∧
    ((atWord 0xF118).setWaitKey true).waitKey = true ∧ (State.reset.setPc 0x0FFF).fetchAddr = 0xFFF := by decide

theorem wit_KeySkipsSampleOneKey : 10 = ((regs [(1, 0x1A)] State.reset).readV 1).toNat % 16 := by decide

theorem wit_KeyWaitCompletesOrWaits :
    State.reset.keys = 0 ∧ (State.reset.setKeys 0x8000).keys.getLsbD 15 = true ∧
    ∀ j, j < 15 → (State.reset.setKeys 0x8000).keys.getLsbD j = false := by decide

theorem wit_TimerTickCountsDown : (State.reset.setDt 1).dt ≠ 0 ∧ (State.reset.setDt 1).st = 0 := by decide

/-- Both clauses: the longest program that fits, and one byte more. -/
theorem wit_LoadProgramCopiesOrRejects :
    State.reset.Inv ∧ (List.replicate 3584 (0 : Byte)).length ≤ 3584 ∧ 3584 < (List.replicate 3585 (0 : Byte)).length :=
  ⟨wit_inv, by rw [List.length_replicate], by rw [List.length_replicate]; omega⟩

theorem wit_InvariantHoldsAtReset : State.reset.cfg.Legal := wit_inv.cfgLegal

theorem wit_InvariantKeptByStep : State.reset.Inv ∧ ∃ t, step State.reset = .next t := ⟨wit_inv, _, rfl⟩

theorem wit_InvariantKeptByInterleavings : State.reset.Inv := wit_inv

theorem wit_ErrorsArePrecise : raisable (.drw 0 0 1) = some (.dataOob 0x1000) := by decide

theorem wit_RedrawIsNeverRead : (State.reset.setRedraw true).redraw = true := by decide

/-- The occupied entry agrees and a vacated one differs. -/
theorem wit_VacatedStackEntriesAreNeverRead :
    (atSp 1).Inv ∧ (List.replicate 1 0 ++ List.replicate 15 (5 : Word)).length = (atSp 1).stack.length ∧
    ∀ k, k < (atSp 1).sp → (List.replicate 1 0 ++ List.replicate 15 (5 : Word)).getD k 0 = (atSp 1).stackEntry k :=
  ⟨wit_inv_atSp (by decide), by decide, by decide⟩

/-- A return to an even entry, a return on an empty stack, and a call of an odd target on a full one. -/
theorem wit_EvenPcKeptWithoutOddTransfer_calls :
    decode (((atWord 0x00EE).setStack [0x0204]).setSp 1).nextWord = .ok .ret ∧
    (((atWord 0x00EE).setStack [0x0204]).setSp 1).sp = 1 ∧
    ((((atWord 0x00EE).setStack [0x0204]).setSp 1).stackEntry 0).toNat % 2 = 0 ∧
    decode (atWord 0x00EE).nextWord = .ok .ret ∧ ¬ 0 < (atWord 0x00EE).sp ∧
    decode ((atWord 0x2301).setSp 16).nextWord = .ok (.call 0x301) ∧
    ¬ ((atWord 0x2301).setSp 16).sp < ((atWord 0x2301).setSp 16).cfg.stackDepth ∧
    (atWord 0x00EE).pc.toNat % 2 = 0 := by decide

theorem wit_EvenPcKeptWithoutOddTransfer :
    (∃ t, step (atWord 0x1ABC) = .next t) ∧ (atWord 0x1ABC).pc.toNat % 2 = 0 ∧
    decode (atWord 0x1ABC).nextWord = .ok (.jp 0xABC) ∧ (0xABC#12).toNat % 2 = 0 := ⟨⟨_, rfl⟩, by decide, by decide, by decide⟩

end Sys2Proof.Tests
end

/-! PROOFS. The sound timer (spec/10_state.md R26). One fact carries the obligation: a Step that does not execute `LD ST, Vx`
commutes with replacing ST. So no such Step reads ST, and (ST replaced by itself) none writes it. -/

namespace Sys2Proof.Machine

/-! ### Every Step answers a next state (R242, R243) -/

/-- No arm of `exec` faults or refuses. -/
theorem exec_next (i : Instr) (s : State) : ∃ t, exec i s = .next t := by
  cases i with
  | ret =>
    obtain ⟨-, e⟩ | ⟨-, e⟩ := execRet_cases s
    · exact ⟨_, e⟩
    · exact ⟨_, e⟩
  | call nnn =>
    obtain ⟨-, e⟩ | ⟨-, e⟩ := execCall_cases nnn s
    · exact ⟨_, e⟩
    · exact ⟨_, e⟩
  | ldVxK x =>
    obtain ⟨_, -, e⟩ | ⟨-, e⟩ := execLdVxK_cases x s
    · exact ⟨_, e⟩
    · exact ⟨_, e⟩
  | drw | ldB | stRegs | ldRegs => exact ⟨_, State.withData_eq ..⟩
  | _ => exact ⟨_, rfl⟩

theorem State.waitStep_next (s : State) : ∃ t, s.waitStep = .next t := by
  obtain ⟨_, -, e⟩ | ⟨-, e⟩ := s.waitStep_cases
  · exact ⟨_, e⟩
  · exact ⟨_, e⟩

theorem State.dispatch_of_ok {w : Word} {i : Instr} (h : decode w = .ok i) (s : State) : s.dispatch w = exec i s := by
  rw [State.dispatch, h]

theorem State.dispatch_of_error {w : Word} {e : DecodeError} (h : decode w = .error e) (s : State) :
    s.dispatch w = .next (s.setResult (.unknownOpcode w)) := by
  rw [State.dispatch, h]; rfl

theorem State.dispatch_next (s : State) (w : Word) : ∃ t, s.dispatch w = .next t := by
  cases h : decode w with
  | ok i => rw [State.dispatch_of_ok h]; exact exec_next i s
  | error e => exact ⟨_, State.dispatch_of_error h s⟩

theorem finishStep_exists_next {o : StepOut} (h : ∃ t, o = .next t) : ∃ t, finishStep o = .next t := by
  obtain ⟨t, rfl⟩ := h
  exact ⟨_, finishStep_next t⟩

theorem step_next (s : State) : ∃ t, step s = .next t := by
  obtain ⟨-, e⟩ | ⟨-, -, e⟩ | ⟨-, -, e⟩ := step_cases s
  · rw [e]; exact finishStep_exists_next s.waitStep_next
  · exact ⟨_, e⟩
  · rw [e]; exact finishStep_exists_next (State.dispatch_next _ _)

/-! ### A Step by the case its state selects (R120) -/

theorem step_of_wait {s : State} (hw : s.waitKey = true) : step s = finishStep s.waitStep := by
  obtain ⟨-, e⟩ | ⟨h, -⟩ | ⟨h, -⟩ := step_cases s
  · exact e
  · simp [hw] at h
  · simp [hw] at h

theorem step_of_fetch_oob {s : State} (hw : s.waitKey = false) (hf : s.fetchAddr = 0xFFF) :
    step s = .next (s.setResult (.fetchOob memSize)).endStep := by
  obtain ⟨h, -⟩ | ⟨-, -, e⟩ | ⟨-, h, -⟩ := step_cases s
  · simp [hw] at h
  · exact e
  · exact absurd hf h

theorem step_of_fetch {s : State} (hw : s.waitKey = false) (hf : s.fetchAddr ≠ 0xFFF) :
    step s = finishStep ((s.setPc (s.pc + 2)).dispatch s.nextWord) := by
  obtain ⟨h, -⟩ | ⟨-, h, -⟩ | ⟨-, -, e⟩ := step_cases s
  · simp [hw] at h
  · exact absurd h hf
  · exact e

/-! ### The shared operations commute with replacing ST -/

/-- The answer with its next state, if it is one, passed through `f`. -/
def mapNext (f : State → State) : StepOut → StepOut
  | .next s => .next (f s)
  | .fault r => .fault r
  | .refused r => .refused r

@[simp] theorem mapNext_next (f : State → State) (s : State) : mapNext f (.next s) = .next (f s) := rfl

namespace State
variable (s : State) (b : Byte)

@[simp] theorem setSt_nextWord : (s.setSt b).nextWord = s.nextWord := rfl

@[simp] theorem setSt_readBytes (a k : Nat) : (s.setSt b).readBytes a k = s.readBytes a k := by
  induction k generalizing a with
  | zero => rfl
  | succ k ih => simp only [readBytes, setSt_readByte, ih]

theorem setSt_writeBytes (a : Nat) (bs : List Byte) : (s.setSt b).writeBytes a bs = (s.writeBytes a bs).setSt b := by
  induction bs generalizing s a with
  | nil => rfl
  | cons c bs ih => exact ih (s.writeByte a c) (a + 1)

theorem setSt_writeRegs (k : Nat) (bs : List Byte) : (s.setSt b).writeRegs k bs = (s.writeRegs k bs).setSt b := by
  induction bs generalizing s k with
  | nil => rfl
  | cons c bs ih => exact ih (s.writeV (BitVec.ofNat 4 k) c) (k + 1)

theorem setSt_skipIf (c : Bool) : (s.setSt b).skipIf c = mapNext (·.setSt b) (s.skipIf c) := by
  cases c <;> rfl

/-- The bound of a data access does not depend on ST, so both states take the same branch. -/
theorem setSt_withData (k : Nat) (e : State) :
    (s.setSt b).withData k (e.setSt b) = mapNext (·.setSt b) (s.withData k e) := by
  have hfits : (s.setSt b).dataFits k = s.dataFits k := rfl
  rw [withData_eq, withData_eq, hfits]
  cases s.dataFits k <;> rfl

theorem setSt_push (w : Word) : (s.setSt b).push w = (s.push w).map (·.setSt b) := by
  obtain ⟨h, e⟩ | ⟨h, e⟩ := s.push_cases w
  · rw [e]; exact if_pos h
  · rw [e]; exact if_neg (Nat.not_lt.2 h)

theorem setSt_pop : (s.setSt b).pop = s.pop.map (fun p => (p.1, p.2.setSt b)) := by
  unfold pop
  rw [setSt_sp]
  cases s.sp <;> rfl

theorem setSt_drawn (x y : Reg) (n : Nat) : (s.setSt b).drawn x y n = s.drawn x y n := by
  rw [drawn, setSt_readBytes]; rfl

/-! ### The meanings and the phases of a Step commute with replacing ST -/

theorem setSt_execRet : execRet (s.setSt b) = mapNext (·.setSt b) (execRet s) := by
  rw [execRet, setSt_pop, execRet]
  cases s.pop <;> rfl

theorem setSt_execCall (nnn : Addr) : execCall nnn (s.setSt b) = mapNext (·.setSt b) (execCall nnn s) := by
  rw [execCall, setSt_pc, setSt_push, execCall]
  cases s.push s.pc <;> rfl

theorem setSt_execDrw (x y : Reg) (n : Nat) : execDrw x y n (s.setSt b) = mapNext (·.setSt b) (execDrw x y n s) := by
  rw [execDrw, setSt_drawn]
  exact s.setSt_withData b _ (((s.setDisp (s.drawn x y n).disp).writeV vf (flagByte (s.drawn x y n).hit)).setRedraw true)

theorem setSt_execLdB (x : Reg) : execLdB x (s.setSt b) = mapNext (·.setSt b) (execLdB x s) := by
  rw [execLdB, setSt_writeBytes]
  exact s.setSt_withData b _ _

theorem setSt_execStRegs (x : Reg) : execStRegs x (s.setSt b) = mapNext (·.setSt b) (execStRegs x s) := by
  rw [execStRegs, setSt_writeBytes]
  exact s.setSt_withData b _ _

theorem setSt_execLdRegs (x : Reg) : execLdRegs x (s.setSt b) = mapNext (·.setSt b) (execLdRegs x s) := by
  rw [execLdRegs, setSt_writeRegs, dataBlock, setSt_readBytes]
  exact s.setSt_withData b _ _

theorem setSt_execLdVxK (x : Reg) : execLdVxK x (s.setSt b) = mapNext (·.setSt b) (execLdVxK x s) := by
  rw [execLdVxK, setSt_keys, execLdVxK]
  cases leastKey s.keys <;> rfl

theorem setSt_waitStep : (s.setSt b).waitStep = mapNext (·.setSt b) s.waitStep := by
  rw [waitStep, setSt_keys, waitStep]
  cases leastKey s.keys <;> rfl

/-- Every instruction but `LD ST, Vx` neither reads nor writes ST. -/
theorem setSt_exec {i : Instr} (h : ∀ x, i ≠ .ldStVx x) : exec i (s.setSt b) = mapNext (·.setSt b) (exec i s) := by
  cases i with
  | ldStVx x => exact absurd rfl (h x)
  | seImm | sneImm | seReg | sneReg | skp | sknp => exact s.setSt_skipIf b _
  | ret => exact s.setSt_execRet b
  | call nnn => exact s.setSt_execCall b nnn
  | drw x y n => exact s.setSt_execDrw b x y n
  | ldB x => exact s.setSt_execLdB b x
  | stRegs x => exact s.setSt_execStRegs b x
  | ldRegs x => exact s.setSt_execLdRegs b x
  | ldVxK x => exact s.setSt_execLdVxK b x
  | _ => rfl

theorem setSt_exec_ldStVx (x : Reg) : exec (.ldStVx x) (s.setSt b) = exec (.ldStVx x) s := rfl

theorem setSt_dispatch {w : Word} (h : ∀ x, decode w ≠ .ok (.ldStVx x)) :
    (s.setSt b).dispatch w = mapNext (·.setSt b) (s.dispatch w) := by
  cases hd : decode w with
  | ok i =>
    rw [dispatch_of_ok hd, dispatch_of_ok hd]
    exact s.setSt_exec b fun x hi => h x (hi ▸ hd)
  | error e => rw [dispatch_of_error hd, dispatch_of_error hd]; rfl

end State

theorem finishStep_mapNext_setSt (b : Byte) (o : StepOut) :
    finishStep (mapNext (·.setSt b) o) = mapNext (·.setSt b) (finishStep o) := by
  cases o <;> rfl

/-! ### The Step and ST -/

/-- The Step of the state does not execute `LD ST, Vx`: it waits, its fetch fails, or the fetched word is another one. -/
def State.NotLdSt (s : State) : Prop :=
  s.waitKey = false → s.fetchAddr ≠ 0xFFF → ∀ x, decode s.nextWord ≠ .ok (.ldStVx x)

/-- A Step that does not execute `LD ST, Vx` commutes with replacing ST. -/
theorem step_setSt {s : State} (h : s.NotLdSt) (b : Byte) : step (s.setSt b) = mapNext (·.setSt b) (step s) := by
  obtain ⟨hw, e⟩ | ⟨hw, hf, e⟩ | ⟨hw, hf, e⟩ := step_cases s
  · rw [e, step_of_wait (s := s.setSt b) hw, State.setSt_waitStep, finishStep_mapNext_setSt]
  · rw [e, step_of_fetch_oob (s := s.setSt b) hw hf]; rfl
  · rw [e, step_of_fetch (s := s.setSt b) hw hf, ← finishStep_mapNext_setSt]
    exact congrArg finishStep ((s.setPc (s.pc + 2)).setSt_dispatch b (h hw hf))

/-- A Step that executes `LD ST, Vx` overwrites ST, so its old value is lost. -/
theorem step_setSt_of_ldStVx {s : State} {x : Reg} (hw : s.waitKey = false) (hf : s.fetchAddr ≠ 0xFFF)
    (hd : decode s.nextWord = .ok (.ldStVx x)) (b : Byte) : step (s.setSt b) = step s := by
  rw [step_of_fetch hw hf, step_of_fetch (s := s.setSt b) hw hf, State.setSt_nextWord,
    State.dispatch_of_ok hd, State.dispatch_of_ok hd]
  exact congrArg finishStep ((s.setPc (s.pc + 2)).setSt_exec_ldStVx b x)

/-- ST replaced by its own value is the state itself, so a Step that commutes with replacing ST keeps ST. -/
theorem step_keeps_st {s t : State} (h : s.NotLdSt) (e : step s = .next t) : t.st = s.st := by
  have hself : step s = mapNext (·.setSt s.st) (step s) := step_setSt h s.st
  rw [e, mapNext_next] at hself
  injection hself with ht
  rw [ht, State.setSt_st]

/-- Two states that differ in ST only step to two states that differ in ST at most. -/
theorem step_st_noninterference (s : State) (b : Byte) :
    ∃ t u, step s = .next t ∧ step (s.setSt b) = .next u ∧ u.setSt t.st = t := by
  obtain ⟨t, e⟩ := step_next s
  by_cases h : s.NotLdSt
  · exact ⟨t, t.setSt b, e, by rw [step_setSt h, e, mapNext_next], rfl⟩
  · simp only [State.NotLdSt, not_forall, not_not] at h
    obtain ⟨hw, hf, x, hd⟩ := h
    exact ⟨t, t, e, by rw [step_setSt_of_ldStVx hw hf hd, e], rfl⟩

/-! ### The countdown of TimerTick (R130) -/

theorem countDown_zero : countDown 0 = 0 := rfl

theorem countDown_toNat_add_one {b : Byte} (h : b ≠ 0) : (countDown b).toNat + 1 = b.toNat := by
  rw [countDown, if_neg h]
  bv_omega

@[simp] theorem State.timerTick_dt (s : State) : s.timerTick.dt = countDown s.dt := rfl

@[simp] theorem State.timerTick_st (s : State) : s.timerTick.st = countDown s.st := rfl

/-- Settles O45: a Step that does not execute `LD ST, Vx` commutes with replacing ST, and one that does overwrites it. -/
theorem soundTimerIsNeverRead : Obligations.SoundTimerIsNeverRead := by
  refine ⟨fun s x => ⟨_, ⟨rfl, rfl⟩, rfl⟩, fun s => ⟨fun h => ?_, fun h => ?_, fun h => ?_⟩, fun s h => ?_,
    step_st_noninterference⟩
  · rw [State.timerTick_st, h, countDown_zero]
  · rw [State.timerTick_st]; exact countDown_toNat_add_one h
  · rw [State.timerTick_dt, State.timerTick_st, h]
  · obtain ⟨t, e⟩ := step_next s
    exact ⟨t, e, step_keeps_st h e⟩

end Sys2Proof.Machine

/-! PROOFS. The opcode map and the decoder (spec/30_encoding.md R91 to R98). Three facts carry the totality of the decoder: what
`decode` answers for a word is right (`decode_isAnswer`), no word selects two rows of the map (`opcodeMap_eq_of_selects`), and a
word that selects a row is not rejected (`decode_ok_of_selects`). -/

namespace Sys2Proof

/-! ### The fields as masks (R91) -/

/-- The bits of a word from `start` up, `len` of them, are the word shifted down under the mask of `len` ones. -/
theorem setWidth_extractLsb'_eq_and_mask (w : Word) (start len : Nat) (hlen : len ≤ 16) :
    (w.extractLsb' start len).setWidth 16 = (w >>> start) &&& BitVec.ofNat 16 (2 ^ len - 1) := by
  have hpow : 2 ^ len ≤ 2 ^ 16 := Nat.pow_le_pow_right (by decide) hlen
  have hpos : 0 < 2 ^ len := Nat.two_pow_pos len
  have hmask : (2 ^ len - 1) % 2 ^ 16 = 2 ^ len - 1 := Nat.mod_eq_of_lt (by omega)
  have hfield : w.toNat >>> start % 2 ^ len < 2 ^ 16 := Nat.lt_of_lt_of_le (Nat.mod_lt _ hpos) hpow
  apply BitVec.eq_of_toNat_eq
  rw [BitVec.toNat_setWidth, BitVec.extractLsb'_toNat, Nat.mod_eq_of_lt hfield, BitVec.toNat_and, BitVec.toNat_ushiftRight,
    BitVec.toNat_ofNat, hmask, Nat.and_two_pow_sub_one_eq_mod]

/-- `op` needs no mask: nothing is above it. -/
theorem setWidth_fieldOp (w : Word) : (fieldOp w).setWidth 16 = w >>> 12 := by
  apply BitVec.eq_of_toNat_eq
  rw [BitVec.toNat_setWidth_of_le (by decide), fieldOp_toNat, BitVec.toNat_ushiftRight, Nat.shiftRight_eq_div_pow]

theorem fieldKk_eq_append (w : Word) : fieldKk w = fieldY w ++ fieldN w :=
  (BitVec.extractLsb'_append_extractLsb'_eq_extractLsb' (start₁ := 0) (len₁ := 4) (len₂ := 4) rfl).symm

theorem fieldNnn_eq_append (w : Word) : fieldNnn w = fieldX w ++ fieldY w ++ fieldN w := by
  have hxy : fieldX w ++ fieldY w = w.extractLsb' 4 8 :=
    BitVec.extractLsb'_append_extractLsb'_eq_extractLsb' (start₁ := 4) (len₁ := 4) (len₂ := 4) rfl
  rw [hxy]
  exact (BitVec.extractLsb'_append_extractLsb'_eq_extractLsb' (start₁ := 0) (len₁ := 4) (len₂ := 8) rfl).symm

/-- Settles O5: a field is the word shifted down under a mask of ones, and adjacent fields append. -/
theorem fieldsAreMasks : Obligations.FieldsAreMasks := fun w =>
  ⟨setWidth_extractLsb'_eq_and_mask w 0 12 (by decide), setWidth_extractLsb'_eq_and_mask w 0 8 (by decide),
    setWidth_extractLsb'_eq_and_mask w 0 4 (by decide), setWidth_extractLsb'_eq_and_mask w 8 4 (by decide),
    setWidth_extractLsb'_eq_and_mask w 4 4 (by decide), setWidth_fieldOp w, fieldKk_eq_append w, fieldNnn_eq_append w⟩

/-! ### The rows of the opcode map (R95) -/

/-- A row does not depend on the operands, so membership computes once the constructor is known. -/
theorem Instr.row_mem_opcodeMap (i : Instr) : i.row ∈ opcodeMap := by
  cases i <;> exact of_decide_eq_true rfl

/-- Every instruction's encoding selects its row: the lemmas of `Laws.RowOfEncoding`, one for each constructor. -/
theorem Instr.row_selects_encode : (i : Instr) → i.row.selects (encode i) = true
  | .cls => Laws.RowOfEncoding.cls
  | .ret => Laws.RowOfEncoding.ret
  | .jp nnn => Laws.RowOfEncoding.jp nnn
  | .call nnn => Laws.RowOfEncoding.call nnn
  | .seImm x kk => Laws.RowOfEncoding.seImm x kk
  | .sneImm x kk => Laws.RowOfEncoding.sneImm x kk
  | .seReg x y => Laws.RowOfEncoding.seReg x y
  | .ldImm x kk => Laws.RowOfEncoding.ldImm x kk
  | .addImm x kk => Laws.RowOfEncoding.addImm x kk
  | .ldReg x y => Laws.RowOfEncoding.ldReg x y
  | .orReg x y => Laws.RowOfEncoding.orReg x y
  | .andReg x y => Laws.RowOfEncoding.andReg x y
  | .xorReg x y => Laws.RowOfEncoding.xorReg x y
  | .addReg x y => Laws.RowOfEncoding.addReg x y
  | .subReg x y => Laws.RowOfEncoding.subReg x y
  | .shr x y => Laws.RowOfEncoding.shr x y
  | .subn x y => Laws.RowOfEncoding.subn x y
  | .shl x y => Laws.RowOfEncoding.shl x y
  | .sneReg x y => Laws.RowOfEncoding.sneReg x y
  | .ldI nnn => Laws.RowOfEncoding.ldI nnn
  | .jpV0 nnn => Laws.RowOfEncoding.jpV0 nnn
  | .rnd x kk => Laws.RowOfEncoding.rnd x kk
  | .drw x y n => Laws.RowOfEncoding.drw x y n
  | .skp x => Laws.RowOfEncoding.skp x
  | .sknp x => Laws.RowOfEncoding.sknp x
  | .ldVxDt x => Laws.RowOfEncoding.ldVxDt x
  | .ldVxK x => Laws.RowOfEncoding.ldVxK x
  | .ldDtVx x => Laws.RowOfEncoding.ldDtVx x
  | .ldStVx x => Laws.RowOfEncoding.ldStVx x
  | .addI x => Laws.RowOfEncoding.addI x
  | .ldF x => Laws.RowOfEncoding.ldF x
  | .ldB x => Laws.RowOfEncoding.ldB x
  | .stRegs x => Laws.RowOfEncoding.stRegs x
  | .ldRegs x => Laws.RowOfEncoding.ldRegs x

/-- Two rows that one word selects agree on the bits that both of them fix. -/
theorem OpcodeRow.value_and_mask_of_selects {r₁ r₂ : OpcodeRow} {w : Word} (h₁ : r₁.selects w = true)
    (h₂ : r₂.selects w = true) : r₁.value &&& r₂.mask = r₂.value &&& r₁.mask := by
  have e₁ : w &&& r₁.mask = r₁.value := eq_of_beq h₁
  have e₂ : w &&& r₂.mask = r₂.value := eq_of_beq h₂
  rw [← e₁, ← e₂, BitVec.and_assoc, BitVec.and_assoc, BitVec.and_comm r₁.mask]

/-- Any two rows of the map differ on a bit that both of them fix: a comparison of the 34 rows, with no word in it. -/
theorem opcodeMap_eq_of_value_and_mask :
    ∀ r₁ ∈ opcodeMap, ∀ r₂ ∈ opcodeMap, r₁.value &&& r₂.mask = r₂.value &&& r₁.mask → r₁ = r₂ := by
  decide

/-- No word selects two rows of the map. -/
theorem opcodeMap_eq_of_selects {r₁ r₂ : OpcodeRow} {w : Word} (hr₁ : r₁ ∈ opcodeMap) (hr₂ : r₂ ∈ opcodeMap)
    (h₁ : r₁.selects w = true) (h₂ : r₂.selects w = true) : r₁ = r₂ :=
  opcodeMap_eq_of_value_and_mask r₁ hr₁ r₂ hr₂ (OpcodeRow.value_and_mask_of_selects h₁ h₂)

/-! ### What the decoder answers is right (R97) -/

/-- A right answer for the word: an instruction whose encoding it is, or the error that names the word as unknown. -/
def IsAnswer (w : Word) : Except DecodeError Instr → Prop
  | .ok i => encode i = w
  | .error e => e = .unknownOpcode w

section
variable {w : Word} {op : BitVec 4}

theorem packNnn_of_fieldOp (h : (fieldOp w).toNat = op.toNat) : packNnn op (fieldNnn w) = w := by
  rw [← BitVec.eq_of_toNat_eq h, packNnn_fields]

theorem packXkk_of_fieldOp (h : (fieldOp w).toNat = op.toNat) : packXkk op (fieldX w) (fieldKk w) = w := by
  rw [← BitVec.eq_of_toNat_eq h, packXkk_fields]

theorem packXkk_of_fieldKk {kk : Byte} (h : (fieldOp w).toNat = op.toNat) (hkk : fieldKk w = kk) :
    packXkk op (fieldX w) kk = w := by
  rw [← hkk, packXkk_of_fieldOp h]

theorem pack_of_fieldN {n : BitVec 4} (h : (fieldOp w).toNat = op.toNat) (hn : (fieldN w).toNat = n.toNat) :
    pack op (fieldX w) (fieldY w) n = w := by
  rw [← BitVec.eq_of_toNat_eq h, ← BitVec.eq_of_toNat_eq hn, pack_fields]

end

theorem decodeOp0_isAnswer (w : Word) : IsAnswer w (decodeOp0 w) := by
  unfold decodeOp0
  split
  · next h => exact h.symm
  · split
    · next h => exact h.symm
    · rfl

theorem decodeOp8_isAnswer {w : Word} (hop : (fieldOp w).toNat = 8) :
    IsAnswer w (decodeOp8 w (fieldX w) (fieldY w) (fieldN w).toNat) := by
  unfold decodeOp8
  split
  case h_10 => rfl
  all_goals next hn => exact pack_of_fieldN hop hn

theorem decodeOpE_isAnswer {w : Word} (hop : (fieldOp w).toNat = 14) : IsAnswer w (decodeOpE w (fieldX w) (fieldKk w)) := by
  unfold decodeOpE
  split
  · next hkk => exact packXkk_of_fieldKk hop hkk
  · split
    · next hkk => exact packXkk_of_fieldKk hop hkk
    · rfl

theorem decodeOpF_isAnswer {w : Word} (hop : (fieldOp w).toNat = 15) : IsAnswer w (decodeOpF w (fieldX w) (fieldKk w)) := by
  unfold decodeOpF
  repeat' split
  case isFalse => rfl
  all_goals next hkk => exact packXkk_of_fieldKk hop hkk

theorem decode_isAnswer (w : Word) : IsAnswer w (decode w) := by
  have hlt : (fieldOp w).toNat < 16 := (fieldOp w).isLt
  unfold decode
  split
  · exact decodeOp0_isAnswer w
  · next h => exact packNnn_of_fieldOp h
  · next h => exact packNnn_of_fieldOp h
  · next h => exact packXkk_of_fieldOp h
  · next h => exact packXkk_of_fieldOp h
  · next h =>
    split
    · next hn => exact pack_of_fieldN h (congrArg BitVec.toNat hn)
    · rfl
  · next h => exact packXkk_of_fieldOp h
  · next h => exact packXkk_of_fieldOp h
  · next h => exact decodeOp8_isAnswer h
  · next h =>
    split
    · next hn => exact pack_of_fieldN h (congrArg BitVec.toNat hn)
    · rfl
  · next h => exact packNnn_of_fieldOp h
  · next h => exact packNnn_of_fieldOp h
  · next h => exact packXkk_of_fieldOp h
  · next h => exact pack_of_fieldN h (by rw [BitVec.ofNat_toNat, BitVec.setWidth_eq])
  · next h => exact decodeOpE_isAnswer h
  · have hop : (fieldOp w).toNat = 15 := by grind
    exact decodeOpF_isAnswer hop

theorem encode_of_decode {w : Word} {i : Instr} (h : decode w = .ok i) : encode i = w := by
  have hw := decode_isAnswer w
  rwa [h] at hw

theorem eq_unknownOpcode_of_decode {w : Word} {e : DecodeError} (h : decode w = .error e) : e = .unknownOpcode w := by
  have hw := decode_isAnswer w
  rwa [h] at hw

/-! ### A word that selects a row is not rejected (R94, R96) -/

section
variable {mask value w : Word} (h : (OpcodeRow.mk mask value).selects w = true)
include h

/-- The bits of a word that the row's mask keeps whole are those of the row's value. -/
theorem extractLsb'_of_selects (start len : Nat) (hmask : mask.extractLsb' start len = BitVec.allOnes len) :
    w.extractLsb' start len = value.extractLsb' start len := by
  have hv : w &&& mask = value := eq_of_beq h
  rw [← hv, BitVec.extractLsb'_and, hmask, BitVec.and_allOnes]

theorem fieldOp_of_selects (hmask : fieldOp mask = 0xF#4) : fieldOp w = fieldOp value :=
  extractLsb'_of_selects h 12 4 hmask

theorem fieldN_of_selects (hmask : fieldN mask = 0xF#4) : fieldN w = fieldN value :=
  extractLsb'_of_selects h 0 4 hmask

theorem fieldKk_of_selects (hmask : fieldKk mask = 0xFF#8) : fieldKk w = fieldKk value :=
  extractLsb'_of_selects h 0 8 hmask

theorem eq_value_of_selects (hmask : mask = 0xFFFF#16) : w = value := by
  subst hmask
  exact (and_maskAll w).symm.trans (eq_of_beq h)

end

/-- The decoder dispatches on what a row fixes: `op` in every row, and in some the whole word, `n` or `kk` too. -/
theorem decode_ok_of_selects {i : Instr} {w : Word} (h : i.row.selects w = true) : ∃ j, decode w = .ok j := by
  cases i with
  | cls | ret => exact ⟨_, by rw [eq_value_of_selects h rfl]; rfl⟩
  | seReg | sneReg | ldReg | orReg | andReg | xorReg | addReg | subReg | shr | subn | shl =>
    exact ⟨_, by rw [decode, fieldOp_of_selects h rfl, fieldN_of_selects h rfl]; rfl⟩
  | skp | sknp | ldVxDt | ldVxK | ldDtVx | ldStVx | addI | ldF | ldB | stRegs | ldRegs =>
    exact ⟨_, by rw [decode, fieldOp_of_selects h rfl, fieldKk_of_selects h rfl]; rfl⟩
  | _ => exact ⟨_, by rw [decode, fieldOp_of_selects h rfl]; rfl⟩

/-! ### The decoder is total over the map (R98) -/

theorem selects_iff_of_decode {w : Word} {i : Instr} (h : decode w = .ok i) {r : OpcodeRow} (hr : r ∈ opcodeMap) :
    r.selects w = true ↔ r = i.row := by
  have hi : i.row.selects w = true := encode_of_decode h ▸ i.row_selects_encode
  constructor
  · intro hs
    exact opcodeMap_eq_of_selects hr i.row_mem_opcodeMap hs hi
  · rintro rfl
    exact hi

theorem selects_eq_false_of_decode {w : Word} {e : DecodeError} (h : decode w = .error e) {r : OpcodeRow}
    (hr : r ∈ opcodeMap) : r.selects w = false := by
  obtain ⟨i, -, rfl⟩ := List.mem_map.1 hr
  refine Bool.eq_false_iff.2 fun hs => ?_
  obtain ⟨j, hj⟩ := decode_ok_of_selects hs
  rw [h] at hj
  cases hj

/-- Settles O3: the instruction decoded is the word's own and its row the only one selected; a rejected word selects none. -/
theorem decoderTotalOverOpcodeMap : Obligations.DecoderTotalOverOpcodeMap := by
  refine ⟨fun w => ?_, fun hi lo rest i h => ?_, fun hi lo rest e h => ?_⟩
  · cases h : decode w with
    | ok i => exact .inl ⟨i, rfl, encode_of_decode h, i.row_mem_opcodeMap, fun r hr => selects_iff_of_decode h hr⟩
    | error e => exact .inr ⟨by rw [eq_unknownOpcode_of_decode h], fun r hr => selects_eq_false_of_decode h hr⟩
  · rw [decodeBytes, h]
  · rw [decodeBytes, h]

end Sys2Proof

/-! PROOFS. The Step and its two control states (spec/40_step_fsm.md R126, R128, R130). One fact carries the control states: no
instruction but `LD Vx, K` writes WAIT_KEY, so the decoded instruction and the keys say where a Step in RUN ends. -/

namespace Sys2Proof.Machine

/-! ### Frames, piece by piece -/

/-- A frame is 17 comparisons, one for each piece of the state. -/
theorem onlyChanges_iff {ps : List Part} {s t : State} :
    OnlyChanges ps s t ↔
      (.v ∉ ps → Part.Same s t .v) ∧ (.i ∉ ps → Part.Same s t .i) ∧ (.pc ∉ ps → Part.Same s t .pc) ∧
      (.dt ∉ ps → Part.Same s t .dt) ∧ (.st ∉ ps → Part.Same s t .st) ∧ (.stack ∉ ps → Part.Same s t .stack) ∧
      (.sp ∉ ps → Part.Same s t .sp) ∧ (.mem ∉ ps → Part.Same s t .mem) ∧ (.disp ∉ ps → Part.Same s t .disp) ∧
      (.redraw ∉ ps → Part.Same s t .redraw) ∧ (.keys ∉ ps → Part.Same s t .keys) ∧
      (.waitKey ∉ ps → Part.Same s t .waitKey) ∧ (.waitX ∉ ps → Part.Same s t .waitX) ∧
      (.cfg ∉ ps → Part.Same s t .cfg) ∧ (.rnd ∉ ps → Part.Same s t .rnd) ∧ (.draws ∉ ps → Part.Same s t .draws) ∧
      (.result ∉ ps → Part.Same s t .result) := by
  constructor
  · intro h
    exact ⟨h _, h _, h _, h _, h _, h _, h _, h _, h _, h _, h _, h _, h _, h _, h _, h _, h _⟩
  · rintro ⟨hv, hi, hpc, hdt, hst, hstack, hsp, hmem, hdisp, hredraw, hkeys, hwaitKey, hwaitX, hcfg, hrnd, hdraws, hresult⟩ p
    cases p <;> assumption

/-! ### TimerTick (R130) -/

theorem State.timerTick_onlyChanges (s : State) : OnlyChanges [.dt, .st] s s.timerTick := by
  simp [onlyChanges_iff, Part.Same, State.timerTick]

/-- Settles O44: both timers count down by the rules of `countDown`, and the tick writes no other piece. -/
theorem timerTickCountsDown : Obligations.TimerTickCountsDown := fun s =>
  ⟨s.timerTick, rfl, fun h => by rw [State.timerTick_dt, h, countDown_zero], fun h => countDown_toNat_add_one h,
    fun h => by rw [State.timerTick_st, h, countDown_zero], fun h => countDown_toNat_add_one h, s.timerTick_onlyChanges⟩

/-! ### The unknown opcode (R128, R231) -/

/-- A word that selects no row of the map is rejected: a decoded one would select the row of its instruction. -/
theorem decode_error_of_not_selects {w : Word} (h : ∀ r ∈ opcodeMap, r.selects w = false) : ∃ e, decode w = .error e := by
  cases hd : decode w with
  | ok i =>
    have hrow : i.row.selects w = true := (selects_iff_of_decode hd i.row_mem_opcodeMap).2 rfl
    simp [h i.row i.row_mem_opcodeMap] at hrow
  | error e => exact ⟨e, rfl⟩

theorem step_of_decode_error {s : State} {e : DecodeError} (hw : s.waitKey = false) (hf : s.fetchAddr ≠ 0xFFF)
    (hd : decode s.nextWord = .error e) :
    step s = .next ((s.setPc (s.pc + 2)).setResult (.unknownOpcode s.nextWord)).endStep := by
  rw [step_of_fetch hw hf, State.dispatch_of_error hd, finishStep_next, State.endStep_eq]

/-- Settles O12: the rejected word is reported at the post-fetch state. -/
theorem unknownOpcodeReported : Obligations.UnknownOpcodeReported := by
  intro s hw hf hrows
  obtain ⟨e, hd⟩ := decode_error_of_not_selects hrows
  refine ⟨_, step_of_decode_error hw hf hd, rfl, rfl, ?_⟩
  simp [onlyChanges_iff, Part.Same]

/-! ### Which instructions write WAIT_KEY (R33, R213) -/

theorem State.withData_waitKey {s e t : State} {k : Nat} (h : s.withData k e = .next t) (he : e.waitKey = s.waitKey) :
    t.waitKey = s.waitKey := by
  rw [State.withData_eq] at h
  cases h
  split
  · exact he
  · rfl

theorem exec_waitKey_of_ne {i : Instr} {s t : State} (h : ∀ x, i ≠ .ldVxK x) (e : exec i s = .next t) :
    t.waitKey = s.waitKey := by
  cases i with
  | ldVxK x => exact absurd rfl (h x)
  | seImm | sneImm | seReg | sneReg | skp | sknp => cases (State.skipIf_eq ..).symm.trans e; rfl
  | ret =>
    obtain ⟨-, e'⟩ | ⟨-, e'⟩ := execRet_cases s
    · cases e'.symm.trans e; rfl
    · cases e'.symm.trans e; rfl
  | call nnn =>
    obtain ⟨-, e'⟩ | ⟨-, e'⟩ := execCall_cases nnn s
    · cases e'.symm.trans e; rfl
    · cases e'.symm.trans e; rfl
  | drw => exact State.withData_waitKey e rfl
  | ldB | stRegs => exact State.withData_waitKey e (State.writeBytes_waitKey ..)
  | ldRegs => exact State.withData_waitKey e (State.writeRegs_waitKey ..)
  | _ => cases e; rfl

/-- `LD Vx, K` enters the wait exactly where no key is down (R213). -/
theorem exec_ldVxK_waitKey {x : Reg} {s t : State} (hw : s.waitKey = false) (e : exec (.ldVxK x) s = .next t) :
    t.waitKey = true ↔ s.keys = 0 := by
  obtain ⟨k, hk, e'⟩ | ⟨hk, e'⟩ := execLdVxK_cases x s
  · cases e'.symm.trans e
    have hdown : s.keys ≠ 0 := fun h => by simp [(leastKey_none_iff _).2 h] at hk
    exact iff_of_false (by simp [hw]) hdown
  · cases e'.symm.trans e
    exact iff_of_true rfl hk

theorem State.dispatch_waitKey {s t : State} {w : Word} (hw : s.waitKey = false) (e : s.dispatch w = .next t) :
    t.waitKey = true ↔ s.keys = 0 ∧ ∃ x, decode w = .ok (.ldVxK x) := by
  cases hd : decode w with
  | error err =>
    cases (State.dispatch_of_error hd s).symm.trans e
    simp [hw]
  | ok i =>
    rw [State.dispatch_of_ok hd] at e
    by_cases hi : ∃ x, i = .ldVxK x
    · obtain ⟨x, rfl⟩ := hi
      simp [exec_ldVxK_waitKey hw e]
    · have hkept : t.waitKey = s.waitKey := exec_waitKey_of_ne (fun x hx => hi ⟨x, hx⟩) e
      simp [hkept, hw, hi]

/-! ### The transitions of the two control states (R125, R126) -/

/-- The answer of a Step is the answer of its phases, with the input byte used up. -/
theorem exists_of_finishStep_eq_next {o : StepOut} {t : State} (h : finishStep o = .next t) :
    ∃ u, o = .next u ∧ t = u.endStep := by
  cases o with
  | next u => cases h; exact ⟨u, rfl, rfl⟩
  | fault f => cases h
  | refused r => cases h

theorem step_waitKey_of_run {s t : State} (hw : s.waitKey = false) (e : step s = .next t) :
    t.waitKey = true ↔ s.fetchAddr ≠ 0xFFF ∧ s.keys = 0 ∧ ∃ x, decode s.nextWord = .ok (.ldVxK x) := by
  by_cases hf : s.fetchAddr = 0xFFF
  · cases (step_of_fetch_oob hw hf).symm.trans e
    simp [hw, hf]
  · rw [step_of_fetch hw hf] at e
    obtain ⟨u, hu, rfl⟩ := exists_of_finishStep_eq_next e
    have hend : u.endStep.waitKey = u.waitKey := rfl
    rw [hend, State.dispatch_waitKey (s := s.setPc (s.pc + 2)) hw hu, State.setPc_keys]
    simp [hf]

theorem step_waitKey_of_wait {s t : State} (hw : s.waitKey = true) (e : step s = .next t) :
    t.waitKey = false ↔ ∃ k, k < 16 ∧ s.keys.getLsbD k = true := by
  rw [step_of_wait hw] at e
  obtain ⟨k, hk, e'⟩ | ⟨hk, e'⟩ := s.waitStep_cases
  · rw [e'] at e
    cases e
    obtain ⟨hlt, hdown, -⟩ := leastKey_some hk
    exact ⟨fun _ => ⟨k, hlt, hdown⟩, fun _ => rfl⟩
  · rw [e'] at e
    cases e
    simp [hw, hk]

theorem step_fetch_oob_stays_due {s t : State} (hw : s.waitKey = false) (hf : s.fetchAddr = 0xFFF) (e : step s = .next t) :
    t.result = .fetchOob 0x1000 ∧ t.waitKey = false ∧ t.fetchAddr = 0xFFF ∧ OnlyChanges [.result, .rnd, .draws] s t := by
  cases (step_of_fetch_oob hw hf).symm.trans e
  refine ⟨rfl, hw, hf, ?_⟩
  simp [onlyChanges_iff, Part.Same]

/-- Settles O15: every Step answers a next state, and the control state it ends in is read off the case it takes. -/
theorem controlStates : Obligations.ControlStates := by
  intro s
  obtain ⟨t, e⟩ := step_next s
  exact ⟨rfl, t, e, fun hw => step_waitKey_of_run hw e, fun hw => step_waitKey_of_wait hw e,
    fun hw hf => step_fetch_oob_stays_due hw hf e⟩

end Sys2Proof.Machine

/-! PROOFS. Control flow (spec/41_control_flow.md R140 to R146). One frame carries the jump and the skips: an execute phase that only
sets PC. Call and return are read off `execCall_cases` and `execRet_cases`, the two things each can do. -/

namespace Sys2Proof.Machine

/-! ### The encodings (R95) -/

theorem encodedAs_ret : EncodedAs 0x00EE#16 .ret := ⟨rfl, rfl⟩

theorem encodedAs_jp (nnn : Addr) : EncodedAs (packNnn 0x1 nnn) (.jp nnn) := ⟨by simp [decode], rfl⟩

theorem encodedAs_call (nnn : Addr) : EncodedAs (packNnn 0x2 nnn) (.call nnn) := ⟨by simp [decode], rfl⟩

theorem encodedAs_seImm (x : Reg) (kk : Byte) : EncodedAs (packXkk 0x3 x kk) (.seImm x kk) := ⟨by simp [decode], rfl⟩

theorem encodedAs_sneImm (x : Reg) (kk : Byte) : EncodedAs (packXkk 0x4 x kk) (.sneImm x kk) := ⟨by simp [decode], rfl⟩

theorem encodedAs_seReg (x y : Reg) : EncodedAs (pack 0x5 x y 0x0) (.seReg x y) := ⟨by simp [decode], rfl⟩

theorem encodedAs_sneReg (x y : Reg) : EncodedAs (pack 0x9 x y 0x0) (.sneReg x y) := ⟨by simp [decode], rfl⟩

/-! ### Setting PC and nothing else (R141, R143 to R146) -/

/-- A 12-bit target keeps its value when it is zero-extended to the width of PC. -/
theorem addrZext_toNat (a : Addr) : (Addr.zext a).toNat = a.toNat := BitVec.toNat_setWidth_of_le (by decide)

theorem State.setPc_setResult_onlyChanges (s : State) (w : Word) (r : Result) :
    OnlyChanges [.pc, .result] s ((s.setPc w).setResult r) := by
  simp [onlyChanges_iff, Part.Same]

/-- Settles O16: the target, zero-extended, is the only thing JP sets. -/
theorem jumpSetsPc : Obligations.JumpSetsPc := fun s nnn =>
  ⟨encodedAs_jp nnn, _, ⟨rfl, rfl⟩, addrZext_toNat nnn, s.setPc_setResult_onlyChanges _ _⟩

/-- An instruction that is a conditional skip on a test of `P` completes, and moves PC where `P` holds. -/
theorem exists_completes_of_exec_eq_skipIf {i : Instr} {s : State} {c : Bool} {P : Prop} [Decidable P]
    (he : exec i s = s.skipIf c) (hc : c = true ↔ P) :
    ∃ t, Completes i s t ∧ t.pc = (if P then s.pc + 2 else s.pc) ∧ OnlyChanges [.pc, .result] s t := by
  refine ⟨_, ⟨he.trans (s.skipIf_eq c), rfl⟩, ?_, s.setPc_setResult_onlyChanges _ _⟩
  rw [State.setResult_pc, State.setPc_pc, if_congr hc rfl rfl]

/-- Settles O20: each comparing skip is the conditional skip on its comparison. -/
theorem comparingSkips : Obligations.ComparingSkips := fun _ x y kk =>
  ⟨encodedAs_seImm x kk, encodedAs_sneImm x kk, encodedAs_seReg x y, encodedAs_sneReg x y,
    exists_completes_of_exec_eq_skipIf rfl beq_iff_eq, exists_completes_of_exec_eq_skipIf rfl bne_iff_ne,
    exists_completes_of_exec_eq_skipIf rfl beq_iff_eq, exists_completes_of_exec_eq_skipIf rfl bne_iff_ne⟩

/-! ### Calls and returns (R140, R142) -/

theorem exec_call_of_room {s : State} (nnn : Addr) (h : s.sp < s.cfg.stackDepth) :
    exec (.call nnn) s =
      .next ((((s.setStack (s.stack.set s.sp s.pc)).setSp (s.sp + 1)).setPc (Addr.zext nnn)).setResult .ok) := by
  obtain ⟨-, e⟩ | ⟨hfull, -⟩ := execCall_cases nnn s
  · exact e
  · omega

theorem raises_call_of_full {s : State} (nnn : Addr) (h : s.cfg.stackDepth ≤ s.sp) : Raises (.call nnn) s .stackOverflow := by
  obtain ⟨hroom, -⟩ | ⟨-, e⟩ := execCall_cases nnn s
  · omega
  · exact e

/-- Settles O17: the invariant gives the stack STACK_DEPTH entries, so the entry SP that the push writes is there to be read. -/
theorem callPushesReturnAddress : Obligations.CallPushesReturnAddress := by
  intro s nnn hinv
  refine ⟨encodedAs_call nnn, fun hroom => ?_, fun hfull => raises_call_of_full nnn hfull.ge⟩
  have hentry : s.sp < s.stack.length := hinv.stackSize ▸ hroom
  refine ⟨_, ⟨exec_call_of_room nnn hroom, rfl⟩, addrZext_toNat nnn, rfl,
    fun k => s.stackEntry_setStack_set s.sp k s.pc hentry, ?_⟩
  simp [onlyChanges_iff, Part.Same]

/-- Settles O18: RET pops where there is an entry, and raises where there is none. -/
theorem returnPopsIntoPc : Obligations.ReturnPopsIntoPc := by
  intro s
  refine ⟨encodedAs_ret, fun hpos => ?_, fun hzero => ?_⟩
  · obtain ⟨-, e⟩ | ⟨hzero, -⟩ := execRet_cases s
    · refine ⟨_, ⟨e, rfl⟩, rfl, rfl, ?_⟩
      simp [onlyChanges_iff, Part.Same]
    · omega
  · obtain ⟨hpos, -⟩ | ⟨-, e⟩ := execRet_cases s
    · omega
    · exact e

end Sys2Proof.Machine

/-! PROOFS. Loads and arithmetic (spec/42_load_alu_random.md R161 to R168). Two shapes of execute phase carry the obligations: one
register write, and a result register followed by VF. Each instruction says only which byte, and which flag, it writes. -/

namespace Sys2Proof.Machine

/-! ### The encodings (R95) -/

theorem encodedAs_ldImm (x : Reg) (kk : Byte) : EncodedAs (packXkk 0x6 x kk) (.ldImm x kk) := ⟨by simp [decode], rfl⟩

theorem encodedAs_ldReg (x y : Reg) : EncodedAs (pack 0x8 x y 0x0) (.ldReg x y) := ⟨by simp [decode, decodeOp8], rfl⟩

theorem encodedAs_addReg (x y : Reg) : EncodedAs (pack 0x8 x y 0x4) (.addReg x y) := ⟨by simp [decode, decodeOp8], rfl⟩

theorem encodedAs_subReg (x y : Reg) : EncodedAs (pack 0x8 x y 0x5) (.subReg x y) := ⟨by simp [decode, decodeOp8], rfl⟩

/-! ### Writing one register and nothing else -/

/-- An instruction that writes one register completes with the byte in that register, and keeps all else. -/
theorem exists_completes_of_exec_eq_writeV {i : Instr} {s : State} {x : Reg} {b : Byte}
    (he : exec i s = (s.writeV x b).done) :
    ∃ t, Completes i s t ∧ t.readV x = b ∧ RegsKept [x] s t ∧ OnlyChanges [.v, .result] s t := by
  refine ⟨_, ⟨he, rfl⟩, ?_, fun r hr => ?_, ?_⟩
  · rw [State.setResult_readV, State.readV_writeV, if_pos rfl]
  · rw [State.setResult_readV, State.readV_writeV, if_neg (List.ne_of_not_mem_cons hr)]
  · simp [onlyChanges_iff, Part.Same]

/-- Settles O23: each load writes its target register once, with the immediate or with the other register. -/
theorem loadsCopyAByte : Obligations.LoadsCopyAByte := fun _ x y kk =>
  ⟨encodedAs_ldImm x kk, encodedAs_ldReg x y, exists_completes_of_exec_eq_writeV rfl, exists_completes_of_exec_eq_writeV rfl⟩

/-! ### A result, then its flag in VF (R160) -/

theorem vf_eq : vf = 15 := rfl

/-- An instruction that writes a result and then VF completes with the flag in VF, also where the result register is VF. -/
theorem exists_completes_of_exec_eq_writeResultFlag {i : Instr} {s : State} {x : Reg} {res flag : Byte}
    (he : exec i s = (s.writeResultFlag x res flag).done) :
    ∃ t, Completes i s t ∧ (x ≠ 15 → t.readV x = res) ∧ t.readV 15 = flag ∧ RegsKept [x, 15] s t ∧
      OnlyChanges [.v, .result] s t := by
  refine ⟨_, ⟨he, rfl⟩, fun hx => ?_, ?_, fun r hr => ?_, ?_⟩
  · rw [State.setResult_readV, State.readV_writeResultFlag, vf_eq, if_neg hx, if_pos rfl]
  · rw [State.setResult_readV, State.readV_writeResultFlag, vf_eq, if_pos rfl]
  · obtain ⟨hrx, hrf⟩ : r ≠ x ∧ r ≠ 15 := by simpa using hr
    rw [State.setResult_readV, State.readV_writeResultFlag, vf_eq, if_neg hrf, if_neg hrx]
  · simp [onlyChanges_iff, Part.Same, State.writeResultFlag]

theorem carryFlag_eq (a b : Byte) : carryFlag a b = if a.toNat + b.toNat > 255 then 1 else 0 := by
  simp only [carryFlag, flagByte_eq, decide_eq_true_eq]

theorem notBorrowFlag_eq (a b : Byte) : notBorrowFlag a b = if a.toNat ≥ b.toNat then 1 else 0 := by
  simp only [notBorrowFlag, flagByte_eq, decide_eq_true_eq]

/-- The difference of two bytes is the integer difference modulo 256, whichever of them is greater. -/
theorem byte_toNat_sub_int (a b : Byte) : ((a - b).toNat : Int) = (a.toNat - b.toNat : Int) % 256 := by
  rw [BitVec.toNat_sub]
  omega

/-- Settles O26: the two writes are the sum and its carry. -/
theorem addSetsCarry : Obligations.AddSetsCarry := by
  intro s x y
  obtain ⟨t, hdone, hres, hflag, hregs, hframe⟩ := exists_completes_of_exec_eq_writeResultFlag (i := .addReg x y) (s := s) rfl
  refine ⟨encodedAs_addReg x y, t, hdone, fun hx => ?_, hflag.trans (carryFlag_eq _ _), hregs, hframe⟩
  rw [hres hx, BitVec.toNat_add]

/-- Settles O27: the two writes are the difference and its not-borrow, both of the registers as they were. -/
theorem subSetsNotBorrow : Obligations.SubSetsNotBorrow := by
  intro s x y
  obtain ⟨t, hdone, hres, hflag, hregs, hframe⟩ := exists_completes_of_exec_eq_writeResultFlag (i := .subReg x y) (s := s) rfl
  refine ⟨encodedAs_subReg x y, t, hdone, fun hx => ?_, hflag.trans (notBorrowFlag_eq _ _), hregs, hframe⟩
  rw [hres hx, byte_toNat_sub_int]

end Sys2Proof.Machine

/-! PROOFS. The index register (spec/43_index_memory.md R180): the execute phase of LD I is one write of I. -/

namespace Sys2Proof.Machine

theorem encodedAs_ldI (nnn : Addr) : EncodedAs (packNnn 0xA nnn) (.ldI nnn) := ⟨by simp [decode], rfl⟩

theorem State.setI_setResult_onlyChanges (s : State) (w : Word) (r : Result) :
    OnlyChanges [.i, .result] s ((s.setI w).setResult r) := by
  simp [onlyChanges_iff, Part.Same]

/-- Settles O31: the address, zero-extended, is the only thing LD I sets. -/
theorem loadIndexSetsI : Obligations.LoadIndexSetsI := fun s nnn =>
  ⟨encodedAs_ldI nnn, _, ⟨rfl, rfl⟩, addrZext_toNat nnn, s.setI_setResult_onlyChanges _ _⟩

end Sys2Proof.Machine

/-! PROOFS. The display (spec/44_display.md R200): the execute phase of CLS stores the blank screen and marks redraw. -/

namespace Sys2Proof.Machine

theorem encodedAs_cls : EncodedAs 0x00E0#16 .cls := ⟨rfl, rfl⟩

/-- The screen that CLS stores shows every pixel off. -/
theorem State.setDisp_off_pixel (s : State) (k : Nat) : (s.setDisp Screen.off).pixel k = false := Screen.pixel_off k

theorem State.setDisp_setRedraw_setResult_onlyChanges (s : State) (d : Screen) (b : Bool) (r : Result) :
    OnlyChanges [.disp, .redraw, .result] s (((s.setDisp d).setRedraw b).setResult r) := by
  simp [onlyChanges_iff, Part.Same]

/-- Settles O38: the stored screen is the blank one, also at positions past its last pixel. -/
theorem clearDisplayTurnsAllOff : Obligations.ClearDisplayTurnsAllOff := fun s =>
  ⟨encodedAs_cls, _, ⟨rfl, rfl⟩, s.setDisp_off_pixel, rfl, s.setDisp_setRedraw_setResult_onlyChanges _ _ _⟩

end Sys2Proof.Machine

/-! PROOFS. The timer copies (spec/45_keypad_timers.md R214 to R216): LD Vx, DT writes one register, and the other two each write
one timer. -/

namespace Sys2Proof.Machine

/-! ### The encodings (R95) -/

theorem encodedAs_ldVxDt (x : Reg) : EncodedAs (packXkk 0xF x 0x07) (.ldVxDt x) := ⟨by simp [decode, decodeOpF], rfl⟩

theorem encodedAs_ldDtVx (x : Reg) : EncodedAs (packXkk 0xF x 0x15) (.ldDtVx x) := ⟨by simp [decode, decodeOpF], rfl⟩

theorem encodedAs_ldStVx (x : Reg) : EncodedAs (packXkk 0xF x 0x18) (.ldStVx x) := ⟨by simp [decode, decodeOpF], rfl⟩

/-! ### Setting one timer and nothing else -/

theorem State.setDt_setResult_onlyChanges (s : State) (b : Byte) (r : Result) :
    OnlyChanges [.dt, .result] s ((s.setDt b).setResult r) := by
  simp [onlyChanges_iff, Part.Same]

theorem State.setSt_setResult_onlyChanges (s : State) (b : Byte) (r : Result) :
    OnlyChanges [.st, .result] s ((s.setSt b).setResult r) := by
  simp [onlyChanges_iff, Part.Same]

/-- Settles O43: the first copy is one register write of DT, the other two set one timer each to the register. -/
theorem timerInstructionsCopy : Obligations.TimerInstructionsCopy := fun s x =>
  ⟨encodedAs_ldVxDt x, encodedAs_ldDtVx x, encodedAs_ldStVx x, exists_completes_of_exec_eq_writeV rfl,
    ⟨_, ⟨rfl, rfl⟩, rfl, s.setDt_setResult_onlyChanges _ _⟩, ⟨_, ⟨rfl, rfl⟩, rfl, s.setSt_setResult_onlyChanges _ _⟩⟩

end Sys2Proof.Machine

/-! PROOFS. The round trip of encoder and decoder, and the words outside the opcode map (spec/30_encoding.md R91 to R98). The only
operand that a word can lose is a sprite height above 15, so the round trip of DRW carries both directions. -/

namespace Sys2Proof

/-! ### Decoding an encoding (R95) -/

/-- A word has four bits for the sprite height, so the height comes back modulo 16 (R93). -/
theorem decode_encode_drw (x y : Reg) (n : Nat) : decode (encode (.drw x y n)) = .ok (.drw x y (n % 16)) := by
  simp [encode, decode]

theorem Instr.wf_drw_iff (x y : Reg) (n : Nat) : (Instr.drw x y n).wf = true ↔ n ≤ 15 := decide_eq_true_iff

theorem decode_encode {i : Instr} (h : i.wf = true) : decode (encode i) = .ok i := by
  cases i with
  | drw x y n =>
    have hn : n ≤ 15 := (Instr.wf_drw_iff x y n).1 h
    rw [decode_encode_drw, Nat.mod_eq_of_lt (by omega)]
  | cls | ret => rfl
  | ldReg | orReg | andReg | xorReg | addReg | subReg | shr | subn | shl => simp [encode, decode, decodeOp8]
  | skp | sknp => simp [encode, decode, decodeOpE]
  | ldVxDt | ldVxK | ldDtVx | ldStVx | addI | ldF | ldB | stRegs | ldRegs => simp [encode, decode, decodeOpF]
  | _ => simp [encode, decode]

/-- The bytes after an instruction's two do not matter. -/
theorem decodeBytes_encodeBytes_append {i : Instr} (h : i.wf = true) (rest : List Byte) :
    decodeBytes (encodeBytes i ++ rest) = .ok (i, rest) := by
  simp only [encodeBytes, List.cons_append, List.nil_append, decodeBytes, wordOfBytes_bytes, decode_encode h]

/-- Settles O1: by the constructor of the instruction; DRW is the one whose operand well-formedness bounds. -/
theorem decodeOfEncode : Obligations.DecodeOfEncode := fun _ h =>
  ⟨decode_encode h, decodeBytes_encodeBytes_append h⟩

/-! ### Encoding what was decoded (R97) -/

/-- A decoded sprite height is what its own encoding decodes to, hence a number below 16; the other forms have no bound. -/
theorem wf_of_decode {w : Word} {i : Instr} (h : decode w = .ok i) : i.wf = true := by
  cases i with
  | drw x y n =>
    rw [← encode_of_decode h, decode_encode_drw] at h
    have hn : n % 16 = n := by injection h with h; injection h
    exact (Instr.wf_drw_iff x y n).2 (by omega)
  | _ => rfl

/-- Settles O2: the encoding is `encode_of_decode`, the bound on the sprite height `wf_of_decode`. -/
theorem encodeOfDecode : Obligations.EncodeOfDecode := fun _ _ h => ⟨wf_of_decode h, encode_of_decode h⟩

/-- Settles O4: the rows are compared one by one, and two that one word selects agree where both fix a bit. -/
theorem opcodeRowsDisjoint : Obligations.OpcodeRowsDisjoint :=
  ⟨rfl, by decide, fun _ _ _ hr₁ hr₂ => opcodeMap_eq_of_selects hr₁ hr₂⟩

/-- Settles O7: ten closed words, each by evaluation. -/
theorem sampleWordsDecode : Obligations.SampleWordsDecode :=
  ⟨rfl, rfl, rfl, rfl, rfl, rfl, rfl, rfl, rfl, rfl⟩

/-! ### The words that each dispatch rejects (R96) -/

theorem decodeOp0_eq_error_iff (w : Word) :
    decodeOp0 w = .error (.unknownOpcode w) ↔ w ≠ 0x00E0#16 ∧ w ≠ 0x00EE#16 := by
  unfold decodeOp0
  split
  · simp_all
  · split <;> simp_all

theorem decodeOp8_eq_error_iff (w : Word) (x y : Reg) (n : BitVec 4) :
    decodeOp8 w x y n.toNat = .error (.unknownOpcode w) ↔ n ∈ [0x8#4, 0x9#4, 0xA#4, 0xB#4, 0xC#4, 0xD#4, 0xF#4] := by
  obtain ⟨n⟩ := n
  fin_cases n <;> simp [decodeOp8]

theorem decodeOpE_eq_error_iff (w : Word) (x : Reg) (kk : Byte) :
    decodeOpE w x kk = .error (.unknownOpcode w) ↔ kk ∉ [0x9E#8, 0xA1#8] := by
  unfold decodeOpE
  repeat' split
  all_goals simp_all

theorem decodeOpF_eq_error_iff (w : Word) (x : Reg) (kk : Byte) :
    decodeOpF w x kk = .error (.unknownOpcode w) ↔
      kk ∉ [0x07#8, 0x0A#8, 0x15#8, 0x18#8, 0x1E#8, 0x29#8, 0x33#8, 0x55#8, 0x65#8] := by
  unfold decodeOpF
  repeat' split
  all_goals simp_all

/-- Settles O6: `op` selects at most one of the six groups, and within it the second dispatch says which words it rejects. -/
theorem unknownOpcodesAreSixGroups : Obligations.UnknownOpcodesAreSixGroups := by
  intro w
  generalize hop : fieldOp w = op
  obtain ⟨op⟩ := op
  fin_cases op <;>
    simp [decode, hop, decodeOp0_eq_error_iff, decodeOp8_eq_error_iff, decodeOpE_eq_error_iff, decodeOpF_eq_error_iff]

end Sys2Proof

/-! PROOFS. Memory and the state invariants (spec/10_state.md R29, R37; spec/20_memory.md R72). The canonical form makes equal
reads equal data; and every operation keeps the pieces that the invariants speak of, or writes them inside their bounds. -/

namespace Sys2Proof.Machine

/-! ### The canonical form (log 7) -/

theorem Memory.wfFrom_cons_iff {cfg : Config} {lo k : Nat} {c : Byte} {m : List Host.Cell} :
    Memory.wfFrom cfg lo ((k, c) :: m) = true ↔
      lo ≤ k ∧ k < memSize ∧ c ≠ resetByte cfg k ∧ Memory.wfFrom cfg (k + 1) m = true := by
  simp only [Memory.wfFrom, Bool.and_eq_true, decide_eq_true_eq, and_assoc]

/-- A listed cell reads as no unlisted address does, so two canonical lists that read the same cannot differ in a first cell. -/
theorem Memory.not_wfFrom_succ_of_read_eq {cfg : Config} {k lo : Nat} {c : Byte} {m m' : List Host.Cell}
    (hm : Memory.wfFrom cfg lo ((k, c) :: m) = true)
    (hread : Memory.read cfg ((k, c) :: m) k = Memory.read cfg m' k) : ¬ Memory.wfFrom cfg (k + 1) m' = true := by
  intro hm'
  obtain ⟨-, -, hc, -⟩ := Memory.wfFrom_cons_iff.1 hm
  rw [Memory.read_cons_cell, if_pos rfl, Memory.read_below hm' (by omega)] at hread
  exact hc hread

theorem Memory.eq_of_read_eq {cfg : Config} {m m' : List Host.Cell} {lo lo' : Nat} (hm : Memory.wfFrom cfg lo m = true)
    (hm' : Memory.wfFrom cfg lo' m' = true) (hread : ∀ a, Memory.read cfg m a = Memory.read cfg m' a) : m = m' := by
  induction m generalizing lo lo' m' with
  | nil =>
    cases m' with
    | nil => rfl
    | cons e' m' => exact absurd rfl (Memory.not_wfFrom_succ_of_read_eq hm' (hread _).symm)
  | cons e m ih =>
    obtain ⟨k, c⟩ := e
    cases m' with
    | nil => exact absurd rfl (Memory.not_wfFrom_succ_of_read_eq hm (hread _))
    | cons e' m' =>
      obtain ⟨k', c'⟩ := e'
      have hne := Memory.not_wfFrom_succ_of_read_eq hm (hread k)
      have hne' := Memory.not_wfFrom_succ_of_read_eq hm' (hread k').symm
      obtain ⟨-, hk, hc, htail⟩ := Memory.wfFrom_cons_iff.1 hm
      obtain ⟨-, hk', hc', htail'⟩ := Memory.wfFrom_cons_iff.1 hm'
      obtain rfl : k = k' := by
        have h1 : ¬ k + 1 ≤ k' := fun h => hne (Memory.wfFrom_cons_iff.2 ⟨h, hk', hc', htail'⟩)
        have h2 : ¬ k' + 1 ≤ k := fun h => hne' (Memory.wfFrom_cons_iff.2 ⟨h, hk, hc, htail⟩)
        omega
      have hhead := hread k
      simp only [Memory.read_cons_cell, if_true] at hhead
      subst hhead
      congr 1
      refine ih htail htail' fun a => ?_
      by_cases ha : a = k
      · rw [Memory.read_below htail (by omega), Memory.read_below htail' (by omega)]
      · simpa only [Memory.read_cons_cell, if_neg ha] using hread a

/-- Settles O9: both lists are in canonical form, and canonical lists that read the same are equal. -/
theorem memoryFormCanonical : Obligations.MemoryFormCanonical := by
  intro s t hs ht hcfg hread
  have htwf : Memory.wfFrom s.cfg 0 t.mem = true := hcfg ▸ ht.memWf
  refine Memory.eq_of_read_eq hs.memWf htwf fun a => ?_
  have h := hread a
  rwa [State.readByte_eq, State.readByte_eq, ← hcfg] at h

/-! ### What keeps the invariants (R37) -/

/-- The step from `s` to `t` keeps the invariants, the parameters, the keys and the number of stack entries. -/
structure State.Keeps (s t : State) : Prop where
  inv : t.Inv
  cfg : t.cfg = s.cfg
  keys : t.keys = s.keys
  stackSize : t.stack.length = s.stack.length

/-- Whatever leaves the pieces of the invariants alone keeps them. -/
theorem State.Inv.of_same {s t : State} (hs : s.Inv) (hcfg : t.cfg = s.cfg) (hsp : t.sp = s.sp) (hstack : t.stack = s.stack)
    (hmem : t.mem = s.mem) : t.Inv where
  cfgLegal := hcfg ▸ hs.cfgLegal
  spBound := by rw [hsp, hcfg]; exact hs.spBound
  stackSize := by rw [hstack, hcfg]; exact hs.stackSize
  memWf := by rw [hmem, hcfg]; exact hs.memWf

theorem State.Inv.keeps_of_same {s t : State} (hs : s.Inv) (hcfg : t.cfg = s.cfg) (hkeys : t.keys = s.keys)
    (hsp : t.sp = s.sp) (hstack : t.stack = s.stack) (hmem : t.mem = s.mem) : s.Keeps t :=
  ⟨hs.of_same hcfg hsp hstack hmem, hcfg, hkeys, congrArg List.length hstack⟩

theorem State.Inv.writeByte {s : State} (hs : s.Inv) {a : Nat} (ha : a < memSize) (b : Byte) : (s.writeByte a b).Inv where
  cfgLegal := hs.cfgLegal
  spBound := hs.spBound
  stackSize := hs.stackSize
  memWf := State.wf_writeByte hs.memWf ha b

theorem State.Inv.writeBytes {s : State} (hs : s.Inv) {a : Nat} {bs : List Byte} (ha : a + bs.length ≤ memSize) :
    (s.writeBytes a bs).Inv where
  cfgLegal := by rw [State.writeBytes_cfg]; exact hs.cfgLegal
  spBound := by rw [State.writeBytes_sp, State.writeBytes_cfg]; exact hs.spBound
  stackSize := by rw [State.writeBytes_stack, State.writeBytes_cfg]; exact hs.stackSize
  memWf := by rw [State.writeBytes_cfg]; exact State.wf_writeBytes hs.memWf ha

theorem State.Inv.keeps_writeBytes {s : State} (hs : s.Inv) {a : Nat} {bs : List Byte} (ha : a + bs.length ≤ memSize) :
    s.Keeps (s.writeBytes a bs) :=
  ⟨hs.writeBytes ha, s.writeBytes_cfg a bs, s.writeBytes_keys a bs, by rw [State.writeBytes_stack]⟩

theorem State.Keeps.setResult {s t : State} (h : s.Keeps t) (r : Result) : s.Keeps (t.setResult r) :=
  ⟨h.inv.of_same rfl rfl rfl rfl, h.cfg, h.keys, h.stackSize⟩

theorem State.Keeps.endStep {s t : State} (h : s.Keeps t) : s.Keeps t.endStep :=
  ⟨h.inv.of_same rfl rfl rfl rfl, h.cfg, h.keys, h.stackSize⟩

/-! ### The instructions keep the invariants -/

/-- The effect of a data access has to keep the invariants only where its bytes lie inside memory. -/
theorem State.withData_keeps {s e t : State} {k : Nat} (hs : s.Inv) (he : s.dataAddr 0 + k ≤ memSize → s.Keeps e)
    (h : s.withData k e = .next t) : s.Keeps t := by
  rw [State.withData_eq] at h
  cases h
  split
  · next hfits => exact (he ((s.dataFits_iff k).1 hfits)).setResult _
  · exact hs.keeps_of_same rfl rfl rfl rfl rfl

/-- A push finds room, so SP stays within the stack; the entry is replaced, not added (R28, R142). -/
theorem State.Inv.keeps_execCall {s t : State} (hs : s.Inv) {nnn : Addr} (e : execCall nnn s = .next t) : s.Keeps t := by
  obtain ⟨hroom, e'⟩ | ⟨-, e'⟩ := execCall_cases nnn s
  · cases e'.symm.trans e
    exact ⟨⟨hs.cfgLegal, hroom, by simpa using hs.stackSize, hs.memWf⟩, rfl, rfl, by simp⟩
  · cases e'.symm.trans e
    exact hs.keeps_of_same rfl rfl rfl rfl rfl

theorem State.Inv.keeps_execRet {s t : State} (hs : s.Inv) (e : execRet s = .next t) : s.Keeps t := by
  have hbound := hs.spBound
  obtain ⟨-, e'⟩ | ⟨-, e'⟩ := execRet_cases s
  · cases e'.symm.trans e
    refine ⟨⟨hs.cfgLegal, ?_, hs.stackSize, hs.memWf⟩, rfl, rfl, rfl⟩
    change s.sp - 1 ≤ s.cfg.stackDepth
    omega
  · cases e'.symm.trans e
    exact hs.keeps_of_same rfl rfl rfl rfl rfl

theorem State.Inv.keeps_exec {s t : State} (hs : s.Inv) {i : Instr} (e : exec i s = .next t) : s.Keeps t := by
  cases i with
  | call nnn => exact hs.keeps_execCall e
  | ret => exact hs.keeps_execRet e
  | ldB x => exact State.withData_keeps (k := 3) hs (fun h => hs.keeps_writeBytes h) e
  | stRegs x =>
    exact State.withData_keeps hs (fun h => hs.keeps_writeBytes (by rwa [State.regBlock_length])) e
  | ldRegs x =>
    refine State.withData_keeps hs (fun _ => ?_) e
    exact hs.keeps_of_same (s.writeRegs_cfg _ _) (s.writeRegs_keys _ _) (s.writeRegs_sp _ _) (s.writeRegs_stack _ _)
      (s.writeRegs_mem _ _)
  | drw x y n =>
    refine State.withData_keeps hs (fun _ => ?_) e
    exact hs.keeps_of_same rfl rfl rfl rfl rfl
  | seImm | sneImm | seReg | sneReg | skp | sknp =>
    cases (State.skipIf_eq ..).symm.trans e
    exact hs.keeps_of_same rfl rfl rfl rfl rfl
  | ldVxK x =>
    obtain ⟨k, -, e'⟩ | ⟨-, e'⟩ := execLdVxK_cases x s
    · cases e'.symm.trans e
      exact hs.keeps_of_same rfl rfl rfl rfl rfl
    · cases e'.symm.trans e
      exact hs.keeps_of_same rfl rfl rfl rfl rfl
  | _ => cases e; exact hs.keeps_of_same rfl rfl rfl rfl rfl

/-! ### The Step keeps the invariants -/

theorem State.Inv.keeps_waitStep {s t : State} (hs : s.Inv) (e : s.waitStep = .next t) : s.Keeps t := by
  obtain ⟨k, -, e'⟩ | ⟨-, e'⟩ := s.waitStep_cases
  · cases e'.symm.trans e
    exact hs.keeps_of_same rfl rfl rfl rfl rfl
  · cases e'.symm.trans e
    exact hs.keeps_of_same rfl rfl rfl rfl rfl

theorem State.Inv.keeps_dispatch {s t : State} (hs : s.Inv) {w : Word} (e : s.dispatch w = .next t) : s.Keeps t := by
  cases hd : decode w with
  | ok i =>
    rw [State.dispatch_of_ok hd] at e
    exact hs.keeps_exec e
  | error err =>
    cases (State.dispatch_of_error hd s).symm.trans e
    exact hs.keeps_of_same rfl rfl rfl rfl rfl

theorem State.Inv.keeps_step {s t : State} (hs : s.Inv) (e : step s = .next t) : s.Keeps t := by
  obtain ⟨-, e'⟩ | ⟨-, -, e'⟩ | ⟨-, -, e'⟩ := step_cases s
  · obtain ⟨u, hu, rfl⟩ := exists_of_finishStep_eq_next (e'.symm.trans e)
    exact (hs.keeps_waitStep hu).endStep
  · cases e'.symm.trans e
    exact hs.keeps_of_same rfl rfl rfl rfl rfl
  · obtain ⟨u, hu, rfl⟩ := exists_of_finishStep_eq_next (e'.symm.trans e)
    have hpost : (s.setPc (s.pc + 2)).Inv := hs.of_same rfl rfl rfl rfl
    obtain ⟨hinv, hcfg, hkeys, hstack⟩ := (hpost.keeps_dispatch hu).endStep
    exact ⟨hinv, hcfg, hkeys, hstack⟩

/-- Settles O50: the three ways a Step goes each keep the invariants. -/
theorem invariantKeptByStep : Obligations.InvariantKeptByStep := by
  intro s t hs e
  obtain ⟨hinv, hcfg, hkeys, hstack⟩ := hs.keeps_step e
  exact ⟨hinv, hcfg, hkeys, hstack⟩

/-! ### The operations of the surroundings keep the invariants (R131) -/

theorem State.inv_resetWith {cfg : Config} (h : cfg.Legal) : (State.resetWith cfg).Inv where
  cfgLegal := h
  spBound := Nat.zero_le _
  stackSize := List.length_replicate
  memWf := rfl

theorem Config.default_legal : Config.default.Legal := by
  exact ⟨by decide, by decide, by decide, by decide, by decide⟩

/-- Settles O49: Reset clears SP and the listed cells, and the default parameters are legal. -/
theorem invariantHoldsAtReset : Obligations.InvariantHoldsAtReset :=
  ⟨State.inv_resetWith Config.default_legal, fun _ h => (State.inv_resetWith h).of_same rfl rfl rfl rfl⟩

/-- A program that is not rejected ends inside memory (R71). -/
theorem entry_add_length_le {bytes : List Byte} (h : ¬ bytes.length > maxProgram) : entry + bytes.length ≤ memSize := by
  have hmax : maxProgram = 3584 := rfl
  have hentry : entry = 512 := rfl
  have hsize : memSize = 4096 := rfl
  omega

theorem State.Inv.loadProgram {s : State} (hs : s.Inv) (bytes : List Byte) :
    (s.loadProgram bytes).Inv ∧ (s.loadProgram bytes).cfg = s.cfg := by
  unfold State.loadProgram
  split
  · exact ⟨hs.of_same rfl rfl rfl rfl, rfl⟩
  · next h =>
    exact ⟨(hs.writeBytes (entry_add_length_le h)).of_same rfl rfl rfl rfl, s.writeBytes_cfg _ _⟩

theorem HostOp.apply_keeps_inv (o : HostOp) {s : State} (hs : s.Inv) :
    ∃ t, o.apply s = .next t ∧ t.Inv ∧ t.cfg = s.cfg := by
  cases o with
  | reset => exact ⟨_, rfl, (State.inv_resetWith hs.cfgLegal).of_same rfl rfl rfl rfl, rfl⟩
  | loadProgram bytes => exact ⟨_, rfl, hs.loadProgram bytes⟩
  | setKeys | clearRedraw | timerTick => exact ⟨_, rfl, hs.of_same rfl rfl rfl rfl, rfl⟩
  | step rnd =>
    have hrnd : (s.setRnd (some rnd)).Inv := hs.of_same rfl rfl rfl rfl
    obtain ⟨t, e⟩ := step_next (s.setRnd (some rnd))
    obtain ⟨hinv, hcfg, -, -⟩ := hrnd.keeps_step e
    exact ⟨t, e, hinv, hcfg⟩

/-- Settles O51: by induction on the list of operations, each of which answers a next state with the invariants. -/
theorem invariantKeptByInterleavings : Obligations.InvariantKeptByInterleavings := by
  intro ops
  induction ops with
  | nil => exact fun s hs => ⟨s, rfl, hs, rfl⟩
  | cons o os ih =>
    intro s hs
    obtain ⟨t, e, ht, htcfg⟩ := o.apply_keeps_inv hs
    obtain ⟨u, hrun, hu, hucfg⟩ := ih t ht
    exact ⟨u, by rw [HostOp.run, e]; exact hrun, hu, hucfg.trans htcfg⟩

end Sys2Proof.Machine

/-! PROOFS. Frames (spec/10_state.md R22, R38; spec/60_exceptions.md R237, R242): which pieces, which registers and which
results an instruction writes. Each follows the shape of the execute phase: one register write, a result and its flag, a skip, a
data access, or a case of the stack or of the key wait. -/

namespace Sys2Proof.Machine

/-! ### Laws of frames -/

theorem Part.Same.refl (s : State) (p : Part) : Part.Same s s p := by
  cases p <;> simp [Part.Same]

theorem Part.Same.trans {s t u : State} {p : Part} (h₁ : Part.Same s t p) (h₂ : Part.Same t u p) : Part.Same s u p := by
  cases p with
  | v | stack | mem | disp => exact fun a => (h₂ a).trans (h₁ a)
  | _ => exact Eq.trans h₂ h₁

theorem OnlyChanges.refl (ps : List Part) (s : State) : OnlyChanges ps s s := fun p _ => Part.Same.refl s p

theorem OnlyChanges.trans {ps : List Part} {s t u : State} (h₁ : OnlyChanges ps s t) (h₂ : OnlyChanges ps t u) :
    OnlyChanges ps s u := fun p hp => (h₁ p hp).trans (h₂ p hp)

theorem OnlyChanges.mono {ps qs : List Part} {s t : State} (h : OnlyChanges ps s t) (hsub : ps ⊆ qs) : OnlyChanges qs s t :=
  fun p hp => h p fun hps => hp (hsub hps)

/-! ### The frames of the shapes of an execute phase -/

theorem State.setResult_onlyChanges (s : State) (r : Result) : OnlyChanges [.result] s (s.setResult r) := by
  simp [onlyChanges_iff, Part.Same]

/-- What an execute phase writes before it records its result, and the result. -/
theorem OnlyChanges.setResult {ps : List Part} {s t : State} (h : OnlyChanges ps s t) (hr : .result ∈ ps) (r : Result) :
    OnlyChanges ps s (t.setResult r) :=
  h.trans ((t.setResult_onlyChanges r).mono fun _ hp => by simpa [List.mem_singleton.1 hp] using hr)

theorem State.writeV_onlyChanges (s : State) (x : Reg) (b : Byte) : OnlyChanges [.v, .result] s (s.writeV x b) := by
  simp [onlyChanges_iff, Part.Same]

theorem State.writeResultFlag_onlyChanges (s : State) (x : Reg) (res flag : Byte) :
    OnlyChanges [.v, .result] s (s.writeResultFlag x res flag) :=
  (s.writeV_onlyChanges x res).trans ((s.writeV x res).writeV_onlyChanges vf flag)

theorem State.writeBytes_onlyChanges (s : State) (a : Nat) (bs : List Byte) :
    OnlyChanges [.mem] s (s.writeBytes a bs) := by
  simp [onlyChanges_iff, Part.Same]

theorem State.writeRegs_onlyChanges (s : State) (k : Nat) (bs : List Byte) : OnlyChanges [.v] s (s.writeRegs k bs) := by
  simp [onlyChanges_iff, Part.Same]

theorem State.draw_onlyChanges (s : State) (d : Screen) (b : Byte) :
    OnlyChanges [.v, .disp, .redraw, .result] s (((s.setDisp d).writeV vf b).setRedraw true) := by
  simp [onlyChanges_iff, Part.Same]

theorem State.skipIf_onlyChanges (s : State) (c : Bool) : ∃ t, s.skipIf c = .next t ∧ OnlyChanges [.pc, .result] s t :=
  ⟨_, s.skipIf_eq c, s.setPc_setResult_onlyChanges _ _⟩

theorem State.withData_onlyChanges {ps : List Part} {s e : State} (k : Nat) (he : OnlyChanges ps s e) (hr : .result ∈ ps) :
    ∃ t, s.withData k e = .next t ∧ OnlyChanges ps s t := by
  refine ⟨_, s.withData_eq k e, ?_⟩
  split
  · exact he.setResult hr _
  · exact (OnlyChanges.refl ps s).setResult hr _

theorem execCall_onlyChanges (nnn : Addr) (s : State) :
    ∃ t, execCall nnn s = .next t ∧ OnlyChanges [.pc, .sp, .stack, .result] s t := by
  obtain ⟨-, e⟩ | ⟨-, e⟩ := execCall_cases nnn s
  · exact ⟨_, e, by simp [onlyChanges_iff, Part.Same]⟩
  · exact ⟨_, e, (OnlyChanges.refl _ s).setResult (by decide) _⟩

theorem execRet_onlyChanges (s : State) : ∃ t, execRet s = .next t ∧ OnlyChanges [.pc, .sp, .result] s t := by
  obtain ⟨-, e⟩ | ⟨-, e⟩ := execRet_cases s
  · exact ⟨_, e, by simp [onlyChanges_iff, Part.Same]⟩
  · exact ⟨_, e, (OnlyChanges.refl _ s).setResult (by decide) _⟩

theorem execLdVxK_onlyChanges (x : Reg) (s : State) :
    ∃ t, execLdVxK x s = .next t ∧ OnlyChanges [.v, .waitKey, .waitX, .result] s t := by
  obtain ⟨k, -, e⟩ | ⟨-, e⟩ := execLdVxK_cases x s
  · exact ⟨_, e, by simp [onlyChanges_iff, Part.Same]⟩
  · exact ⟨_, e, by simp [onlyChanges_iff, Part.Same]⟩

/-! ### The pieces (R38) -/

theorem result_mem_writtenParts (i : Instr) : .result ∈ writtenParts i := by
  cases i <;> simp [writtenParts]

/-- Settles O52: by the constructor; each form has the frame of its shape. -/
theorem instructionsWriteOnlyTheirParts : Obligations.InstructionsWriteOnlyTheirParts := by
  intro i s
  cases i with
  | cls => exact ⟨_, rfl, s.setDisp_setRedraw_setResult_onlyChanges _ _ _⟩
  | ret => exact execRet_onlyChanges s
  | jp | jpV0 => exact ⟨_, rfl, s.setPc_setResult_onlyChanges _ _⟩
  | call nnn => exact execCall_onlyChanges nnn s
  | seImm | sneImm | seReg | sneReg | skp | sknp => exact s.skipIf_onlyChanges _
  | ldImm | addImm | ldReg | orReg | andReg | xorReg | rnd | ldVxDt =>
    exact ⟨_, rfl, (s.writeV_onlyChanges _ _).setResult (by decide) _⟩
  | addReg | subReg | shr | subn | shl =>
    exact ⟨_, rfl, (s.writeResultFlag_onlyChanges _ _ _).setResult (by decide) _⟩
  | ldI | addI | ldF => exact ⟨_, rfl, s.setI_setResult_onlyChanges _ _⟩
  | drw => exact State.withData_onlyChanges _ (s.draw_onlyChanges _ _) (result_mem_writtenParts _)
  | ldVxK x => exact execLdVxK_onlyChanges x s
  | ldDtVx => exact ⟨_, rfl, s.setDt_setResult_onlyChanges _ _⟩
  | ldStVx => exact ⟨_, rfl, s.setSt_setResult_onlyChanges _ _⟩
  | ldB | stRegs =>
    exact State.withData_onlyChanges _ ((s.writeBytes_onlyChanges _ _).mono (by simp [writtenParts]))
      (result_mem_writtenParts _)
  | ldRegs =>
    exact State.withData_onlyChanges _ ((s.writeRegs_onlyChanges _ _).mono (by simp [writtenParts]))
      (result_mem_writtenParts _)

/-- A piece that the instruction does not list is the same in the answer. -/
theorem exec_keeps_part {i : Instr} {s t : State} {p : Part} (e : exec i s = .next t) (hp : p ∉ writtenParts i) :
    Part.Same s t p := by
  obtain ⟨t', e', h⟩ := instructionsWriteOnlyTheirParts i s
  cases e.symm.trans e'
  exact h p hp

/-! ### The general registers (R22, R172) -/

theorem RegsKept.setResult {xs : List Reg} {s t : State} (h : RegsKept xs s t) (r : Result) :
    RegsKept xs s (t.setResult r) := h

theorem State.writeV_regsKept (s : State) {x : Reg} {xs : List Reg} (b : Byte) (hx : x ∈ xs) : RegsKept xs s (s.writeV x b) :=
  fun r hr => by
    have hrx : r ≠ x := fun h => hr (h ▸ hx)
    rw [State.readV_writeV, if_neg hrx]

theorem State.writeResultFlag_regsKept (s : State) (x : Reg) (res flag : Byte) :
    RegsKept [x, vf] s (s.writeResultFlag x res flag) := fun r hr => by
  obtain ⟨hrx, hrf⟩ : r ≠ x ∧ r ≠ vf := by simpa using hr
  rw [State.readV_writeResultFlag, if_neg hrf, if_neg hrx]

/-- The registers that a block load of V0 to Vx writes are those with a number up to x (R184). -/
theorem mem_writtenRegs_ldRegs (x r : Reg) : r ∈ writtenRegs (.ldRegs x) ↔ r.toNat ≤ x.toNat := by
  simp only [writtenRegs, List.mem_map, List.mem_range]
  constructor
  · rintro ⟨k, hk, rfl⟩
    rw [BitVec.toNat_ofNat]
    exact (Nat.mod_le _ _).trans (by omega)
  · exact fun h => ⟨r.toNat, by omega, by rw [BitVec.ofNat_toNat, BitVec.setWidth_eq]⟩

theorem State.writeRegs_dataBlock_regsKept (s : State) (x : Reg) :
    RegsKept (writtenRegs (.ldRegs x)) s (s.writeRegs 0 (s.dataBlock x)) := fun r hr => by
  rw [mem_writtenRegs_ldRegs] at hr
  have hx : x.toNat < 16 := x.isLt
  rw [State.readV_writeRegs _ _ _ (by rw [State.dataBlock_length]; omega), State.dataBlock_length, if_neg (by omega)]

theorem State.withData_regsKept {xs : List Reg} {s e : State} (k : Nat) (he : RegsKept xs s e) :
    ∃ t, s.withData k e = .next t ∧ RegsKept xs s t := by
  refine ⟨_, s.withData_eq k e, ?_⟩
  split
  · exact he.setResult _
  · exact fun _ _ => rfl

theorem execLdVxK_regsKept (x : Reg) (s : State) : ∃ t, execLdVxK x s = .next t ∧ RegsKept [x] s t := by
  obtain ⟨k, -, e⟩ | ⟨-, e⟩ := execLdVxK_cases x s
  · exact ⟨_, e, (s.writeV_regsKept _ (by simp)).setResult _⟩
  · exact ⟨_, e, fun _ _ => rfl⟩

/-- An instruction that does not list the registers among its pieces keeps them all. -/
theorem exec_regsKept_of_not_mem {i : Instr} (s : State) (h : .v ∉ writtenParts i) (xs : List Reg) :
    ∃ t, exec i s = .next t ∧ RegsKept xs s t := by
  obtain ⟨t, e⟩ := exec_next i s
  exact ⟨t, e, fun r _ => exec_keeps_part e h r⟩

/-- Settles O53: the forms that write registers by their shape, the others by their frame. -/
theorem instructionsWriteOnlyTheirRegisters : Obligations.InstructionsWriteOnlyTheirRegisters := by
  intro i s
  cases i with
  | ldImm | addImm | ldReg | orReg | andReg | xorReg | rnd | ldVxDt =>
    exact ⟨_, rfl, (s.writeV_regsKept _ (by simp [writtenRegs])).setResult _⟩
  | addReg | subReg | shr | subn | shl => exact ⟨_, rfl, (s.writeResultFlag_regsKept _ _ _).setResult _⟩
  | drw x y n => exact State.withData_regsKept _ ((s.setDisp _).writeV_regsKept (xs := [vf]) _ (by simp))
  | ldVxK x => exact execLdVxK_regsKept x s
  | ldRegs x => exact State.withData_regsKept _ (s.writeRegs_dataBlock_regsKept x)
  | _ => exact exec_regsKept_of_not_mem s (by simp [writtenParts]) _

/-! ### The results (R237, R242) -/

/-- The instruction ends OK, or with the one error it can raise and nothing changed. -/
def EndsPrecisely (i : Instr) (s t : State) : Prop :=
  t.result = .ok ∨ (raisable i = some t.result ∧ t = s.setResult t.result)

theorem endsPrecisely_setResult {i : Instr} {r : Result} (s : State) (h : raisable i = some r) :
    EndsPrecisely i s (s.setResult r) := .inr ⟨h, rfl⟩

/-- A data access is the only thing that can fail in the instruction that makes it (R235). -/
theorem exec_endsPrecisely_of_withData {i : Instr} {s e : State} {k : Nat} (he : exec i s = s.withData k e)
    (hr : raisable i = some (.dataOob memSize)) : ∃ t, exec i s = .next t ∧ EndsPrecisely i s t := by
  refine ⟨_, he.trans (s.withData_eq k e), ?_⟩
  split
  · exact .inl rfl
  · exact endsPrecisely_setResult s hr

theorem exec_endsPrecisely (i : Instr) (s : State) : ∃ t, exec i s = .next t ∧ EndsPrecisely i s t := by
  cases i with
  | ret =>
    obtain ⟨-, e⟩ | ⟨-, e⟩ := execRet_cases s
    · exact ⟨_, e, .inl rfl⟩
    · exact ⟨_, e, endsPrecisely_setResult s rfl⟩
  | call nnn =>
    obtain ⟨-, e⟩ | ⟨-, e⟩ := execCall_cases nnn s
    · exact ⟨_, e, .inl rfl⟩
    · exact ⟨_, e, endsPrecisely_setResult s rfl⟩
  | ldVxK x =>
    obtain ⟨_, -, e⟩ | ⟨-, e⟩ := execLdVxK_cases x s
    · exact ⟨_, e, .inl rfl⟩
    · exact ⟨_, e, .inl rfl⟩
  | drw | ldB | stRegs | ldRegs => exact exec_endsPrecisely_of_withData rfl rfl
  | _ => exact ⟨_, rfl, .inl rfl⟩

/-- Settles O54: only RET, CALL and the data accesses have a case that is not OK, and it records its result and no more. -/
theorem errorsArePrecise : Obligations.ErrorsArePrecise := exec_endsPrecisely

end Sys2Proof.Machine

/-! PROOFS. Memory, the fetch and the Step (spec/20_memory.md R63, R71, R72; spec/40_step_fsm.md R120 to R126, R132;
spec/70_reset_and_hazards.md R260). A Step in RUN is the execute phase of the decoded word with its input byte used up
(`step_of_exec`); what a Step of the skips and of RND does is read off it. -/

namespace Sys2Proof.Machine

/-! ### Bytes and words of memory (R63, R72) -/

/-- Settles O8: the canonical form survives the write, and reads as memory did but for the byte. -/
theorem byteReadAfterWrite : Obligations.ByteReadAfterWrite := fun s a b hs ha =>
  ⟨fun c => State.readByte_writeByte hs.memWf a c b, s.writeBytes_onlyChanges a [b], hs.writeByte ha b⟩

/-- The fetch address is PC modulo 4096 (R66). -/
theorem State.fetchAddr_eq (s : State) : s.fetchAddr = s.pc.toNat % 4096 := by
  rw [State.fetchAddr, BitVec.extractLsb'_toNat, Nat.shiftRight_zero]

/-- The fetched word has its first byte as the high one (R63). -/
theorem State.nextWord_toNat (s : State) :
    s.nextWord.toNat = 256 * (s.readByte s.fetchAddr).toNat + (s.readByte (s.fetchAddr + 1)).toNat := by
  rw [State.nextWord, State.readWord, wordOfBytes_toNat, Nat.mul_comm]

/-! ### Placing a word (log 6) -/

theorem State.placeWord_of_ne {s : State} (h : s.fetchAddr ≠ 0xFFF) (w : Word) :
    s.placeWord w = (s.writeBytes s.fetchAddr [hiByte w, loByte w]).setWaitKey false := by
  simp only [State.placeWord, if_neg h]

/-- The entry point can be fetched at. -/
theorem State.setPc_entry_fetchAddr_ne (s : State) : (s.setPc 0x0200).fetchAddr ≠ 0xFFF := by
  rw [State.fetchAddr_eq, State.setPc_pc]; decide

/-- From a PC that cannot be fetched at, the word is placed as from the entry point. -/
theorem State.placeWord_of_eq {s : State} (h : s.fetchAddr = 0xFFF) (w : Word) :
    s.placeWord w = (s.setPc 0x0200).placeWord w := by
  rw [State.placeWord_of_ne s.setPc_entry_fetchAddr_ne]
  simp only [State.placeWord, if_pos h]

/-- The control state is RUN, and the fetch is inside memory and gives the word. -/
def State.Fetches (s : State) (w : Word) : Prop := s.waitKey = false ∧ s.fetchAddr ≠ 0xFFF ∧ s.nextWord = w

theorem State.placeWord_fetches_of_ne {s : State} (hs : s.Inv) (h : s.fetchAddr ≠ 0xFFF) (w : Word) :
    (s.placeWord w).Fetches w := by
  have hlt : s.fetchAddr < 0x1000 := (Word.low12 s.pc).isLt
  have hfit : s.fetchAddr + [hiByte w, loByte w].length ≤ memSize := by
    simp only [List.length_cons, List.length_nil, memSize]; omega
  have hread := State.readByte_writeBytes hs.memWf hfit
  rw [State.placeWord_of_ne h]
  refine ⟨rfl, by simpa using h, ?_⟩
  simp only [State.nextWord, State.readWord, State.setWaitKey_fetchAddr, State.writeBytes_fetchAddr,
    State.setWaitKey_readByte, hread]
  simp

theorem State.placeWord_fetches {s : State} (hs : s.Inv) (w : Word) : (s.placeWord w).Fetches w := by
  by_cases h : s.fetchAddr = 0xFFF
  · have hentry : (s.setPc 0x0200).Inv := hs.of_same rfl rfl rfl rfl
    rw [State.placeWord_of_eq h]
    exact State.placeWord_fetches_of_ne hentry s.setPc_entry_fetchAddr_ne w
  · exact State.placeWord_fetches_of_ne hs h w

/-- Settles O11: the two bytes are read back, from the old PC or from the entry point. -/
theorem placedWordIsFetched : Obligations.PlacedWordIsFetched := by
  intro s nbits w hs
  obtain ⟨hw, hf, hword⟩ := State.placeWord_fetches hs (tableWord nbits w)
  refine ⟨hw, hf, hword, fun h => ?_⟩
  rw [State.withFetchWord, State.placeWord_of_ne h]
  simp [onlyChanges_iff, Part.Same]

/-! ### A Step in RUN (R120, R121) -/

theorem step_of_exec {s t : State} {i : Instr} (hw : s.waitKey = false) (hf : s.fetchAddr ≠ 0xFFF)
    (hd : decode s.nextWord = .ok i) (e : exec i (s.setPc (s.pc + 2)) = .next t) : step s = .next t.endStep := by
  rw [step_of_fetch hw hf, State.dispatch_of_ok hd, e]; rfl

/-- Settles O10: the decoded instruction answers a next state, and the Step is that with its input byte used up. -/
theorem stepRunsDecodedInstruction : Obligations.StepRunsDecodedInstruction := by
  intro s i hw hf hd
  obtain ⟨t, e⟩ := exec_next i (s.setPc (s.pc + 2))
  exact ⟨s.nextWord_toNat, s.fetchAddr_eq, t, e, step_of_exec hw hf hd e⟩

/-- A Step at the last address leaves a state at which the same Step is due (D6), so the runs compose. -/
theorem run_of_fetch_oob (k : Nat) {s : State} (hw : s.waitKey = false) (hf : s.fetchAddr = 0xFFF) :
    ∃ t, Host.Core.run core (k + 1) s = .next t ∧ t.result = .fetchOob 0x1000 ∧ OnlyChanges [.result, .rnd, .draws] s t := by
  induction k generalizing s with
  | zero =>
    have e := step_of_fetch_oob hw hf
    obtain ⟨hresult, -, -, hframe⟩ := step_fetch_oob_stays_due hw hf e
    exact ⟨_, run_of_step (M := core) e 0, hresult, hframe⟩
  | succ k ih =>
    have e := step_of_fetch_oob hw hf
    obtain ⟨-, hw', hf', hframe⟩ := step_fetch_oob_stays_due hw hf e
    obtain ⟨t, hrun, hresult, hframe'⟩ := ih hw' hf'
    exact ⟨t, (run_of_step (M := core) e (k + 1)).trans hrun, hresult, hframe.trans hframe'⟩

/-- Settles O13: by induction on the number of Steps. -/
theorem fetchPastEndRepeats : Obligations.FetchPastEndRepeats := fun _ k hw hf => run_of_fetch_oob k hw hf

/-! ### The keys (R125, R213) -/

/-- The lowest key that is down is the one that `leastKey` finds. -/
theorem leastKey_eq_some {keys : BitVec 16} {k : Nat} (hk : k < 16) (hdown : keys.getLsbD k = true)
    (hleast : ∀ j, j < k → keys.getLsbD j = false) : leastKey keys = some k := by
  rw [leastKey, List.find?_range_eq_some]
  simpa [hk, hdown] using hleast

/-- A key number fits in a byte. -/
theorem ofNat_toNat_of_key {k : Nat} (hk : k < 16) : (BitVec.ofNat 8 k).toNat = k := by
  rw [BitVec.toNat_ofNat, Nat.mod_eq_of_lt (by omega)]

theorem step_of_wait_of_key {s : State} {k : Nat} (hw : s.waitKey = true) (hk : leastKey s.keys = some k) :
    step s = .next (((s.writeV s.waitX (BitVec.ofNat 8 k)).setWaitKey false).setResult .ok).endStep := by
  rw [step_of_wait hw, State.waitStep, hk]; rfl

theorem step_of_wait_of_no_key {s : State} (hw : s.waitKey = true) (hk : s.keys = 0) :
    step s = .next (s.setResult .ok).endStep := by
  rw [step_of_wait hw, State.waitStep, (leastKey_none_iff _).2 hk]; rfl

/-- Settles O14: no key down and a lowest key exclude each other, and each case is one form of the waiting Step. -/
theorem waitingStepSamplesKeys : Obligations.WaitingStepSamplesKeys := by
  intro s hw
  cases hkeys : leastKey s.keys with
  | none =>
    have hzero := (leastKey_none_iff _).1 hkeys
    refine ⟨_, step_of_wait_of_no_key hw hzero, rfl, fun _ => ?_, fun k _ hdown _ => ?_⟩
    · simp [onlyChanges_iff, Part.Same]
    · simp [hzero] at hdown
  | some m =>
    refine ⟨_, step_of_wait_of_key hw hkeys, rfl, fun hzero => ?_, fun k hk hdown hleast => ⟨?_, rfl, ?_, ?_⟩⟩
    · simp [(leastKey_none_iff _).2 hzero] at hkeys
    · obtain rfl : m = k := by simpa [leastKey_eq_some hk hdown hleast] using hkeys.symm
      simpa using ofNat_toNat_of_key hk
    · exact s.writeV_regsKept _ (by simp)
    · simp [onlyChanges_iff, Part.Same]

/-! ### The skips, over a whole Step (R147) -/

theorem exec_of_skipCondition {i : Instr} {s : State} {taken : Bool} (h : skipCondition s i = some taken) :
    exec i s = s.skipIf taken := by
  cases i with
  | seImm | sneImm | seReg | sneReg | skp | sknp => cases h; rfl
  | _ => cases h

/-- No skip compares anything with PC. -/
theorem skipCondition_setPc (s : State) (w : Word) (i : Instr) : skipCondition (s.setPc w) i = skipCondition s i := by
  cases i <;> rfl

/-- Settles O21: the fetch adds 2 to PC, and a taken skip adds 2 more. -/
theorem skipMovesPcByTwoOrFour : Obligations.SkipMovesPcByTwoOrFour := by
  intro s i taken hw hf hd hskip
  have e : exec i (s.setPc (s.pc + 2)) = (s.setPc (s.pc + 2)).skipIf taken :=
    exec_of_skipCondition ((skipCondition_setPc s _ i).trans hskip)
  refine ⟨_, step_of_exec hw hf hd (e.trans (State.skipIf_eq _ _)), rfl, ?_, ?_⟩
  · cases taken <;> simp
  · simp [onlyChanges_iff, Part.Same]

/-! ### The random byte (R173) -/

/-- RND writes the masked input byte and no more. -/
theorem exists_completes_rnd (s : State) (x : Reg) (kk : Byte) :
    ∃ t, Completes (.rnd x kk) s t ∧ t.readV x = s.rndByte &&& kk ∧ RegsKept [x] s t ∧ OnlyChanges [.v, .result] s t :=
  exists_completes_of_exec_eq_writeV rfl

theorem State.rndByte_of_some {s : State} {r : Byte} (h : s.rnd = some r) : s.rndByte = r := by
  rw [State.rndByte, h]

/-- A Step that the surroundings hand the byte `r` ends with `r` under the mask in the register. -/
theorem stepRnd_of_rnd {s : State} {r : Byte} {x : Reg} {kk : Byte} (hw : s.waitKey = false) (hf : s.fetchAddr ≠ 0xFFF)
    (hd : decode s.nextWord = .ok (.rnd x kk)) :
    (HostOp.step r).apply s =
      .next ((((s.setRnd (some r)).setPc (s.pc + 2)).writeV x (r &&& kk)).setResult .ok).endStep :=
  step_of_exec (s := s.setRnd (some r)) hw hf hd rfl

/-- Settles O30: the register is written with the byte under the mask, in the execute phase and over the whole Step. -/
theorem randomByteIsMasked : Obligations.RandomByteIsMasked := by
  refine ⟨fun s x kk => ?_, fun s r x kk hw hf hd => ⟨_, stepRnd_of_rnd hw hf hd, rfl, ?_, rfl, ?_, ?_⟩⟩
  · obtain ⟨t, hdone, hx, hregs, hframe⟩ := exists_completes_rnd s x kk
    refine ⟨t, hdone, fun r hr => by rw [hx, State.rndByte_of_some hr], fun k hk => ?_, hregs, hframe⟩
    rw [hx, BitVec.getLsbD_and, Bool.and_eq_true] at hk
    exact hk.2
  · simp
  · exact s.writeV_regsKept _ (by simp)
  · simp [onlyChanges_iff, Part.Same]

/-! ### The other operations (R71, R132, R260) -/

/-- Settles O46: each of the two operations sets one piece. -/
theorem keyWriteAndRedrawClear : Obligations.KeyWriteAndRedrawClear := fun s k =>
  ⟨⟨s.setKeys k, rfl, fun _ _ => rfl, by simp [onlyChanges_iff, Part.Same]⟩,
    ⟨s.clearRedraw, rfl, rfl, by simp [onlyChanges_iff, Part.Same, State.clearRedraw]⟩⟩

theorem State.loadProgram_of_le {s : State} {bytes : List Byte} (h : bytes.length ≤ 3584) :
    s.loadProgram bytes = (s.writeBytes entry bytes).setResult .ok := if_neg (Nat.not_lt.2 h)

theorem State.loadProgram_of_lt {s : State} {bytes : List Byte} (h : 3584 < bytes.length) :
    s.loadProgram bytes = s.setResult .programTooLarge := if_pos h

/-- Settles O47: the two lengths exclude each other; a program that fits is one run of writes. -/
theorem loadProgramCopiesOrRejects : Obligations.LoadProgramCopiesOrRejects := by
  intro s bytes hs
  refine ⟨s.loadProgram bytes, rfl, fun h => ?_, State.loadProgram_of_lt⟩
  have hfit : entry + bytes.length ≤ memSize := entry_add_length_le (Nat.not_lt.2 h)
  rw [State.loadProgram_of_le h]
  exact ⟨rfl, ((s.writeBytes_onlyChanges _ _).mono (by simp)).setResult (by simp) _,
    State.readByte_writeBytes hs.memWf hfit⟩

theorem State.resetWith_readV (cfg : Config) (r : Reg) : (State.resetWith cfg).readV r = 0 :=
  Vector.getElem_replicate _

/-- Settles O48: Reset lists no cell, so memory reads as the font and zeros; the reset state is its own Reset. -/
theorem resetValues : Obligations.ResetValues :=
  ⟨fun s => ⟨s.resetOp, rfl, fun _ => rfl, rfl, rfl, State.resetWith_readV s.cfg, rfl, rfl, rfl, Screen.pixel_off,
    rfl, rfl, rfl, rfl⟩, OnlyChanges.refl _ State.reset, rfl, rfl, rfl, rfl⟩

end Sys2Proof.Machine

/-! PROOFS. Arithmetic, logic and shifts, the index register, the key instructions and the data accesses
(spec/41_control_flow.md R148, spec/42_load_alu_random.md R162 to R171, spec/43_index_memory.md R181 to R186,
spec/45_keypad_timers.md R210 to R213). The shapes of execute phase give the frames; each instruction adds the value that it writes. -/

namespace Sys2Proof.Machine

/-! ### Sums of a word and a byte (R148, R181, R182) -/

theorem byteZext_toNat (b : Byte) : (Byte.zext b).toNat = b.toNat := BitVec.toNat_setWidth_of_le (by decide)

/-- Settles O22: a 12-bit address and a byte do not wrap at 16 bits. -/
theorem jumpWithOffset : Obligations.JumpWithOffset := by
  intro s nnn
  refine ⟨_, ⟨rfl, rfl⟩, ?_, s.setPc_setResult_onlyChanges _ _⟩
  rw [State.setResult_pc, State.setPc_pc, BitVec.toNat_add, addrZext_toNat, byteZext_toNat]
  omega

/-- Settles O32: the 16-bit sum is the only thing ADD I sets. -/
theorem addToIndexAccumulates : Obligations.AddToIndexAccumulates := by
  intro s x
  refine ⟨_, ⟨rfl, rfl⟩, ?_, s.setI_setResult_onlyChanges _ _⟩
  rw [State.setResult_i, State.setI_i, BitVec.toNat_add, byteZext_toNat]

/-- A glyph address of a legal font does not wrap at 16 bits, whatever the register holds (R182). -/
theorem State.glyphAddr_toNat {s : State} (h : s.cfg.Legal) (x : Reg) :
    (s.glyphAddr x).toNat = s.cfg.fontBase + 5 * (s.readV x).toNat := by
  obtain ⟨-, -, hfont, -⟩ := h
  have hsize : Config.fontSize = 80 := rfl
  rw [State.glyphAddr, BitVec.toNat_ofNat]
  omega

/-- Settles O33: the glyph address is the only thing LD F sets. -/
theorem fontAddressIsBasePlusFive : Obligations.FontAddressIsBasePlusFive := fun s x hs =>
  ⟨_, ⟨rfl, rfl⟩, State.glyphAddr_toNat hs.cfgLegal x, s.setI_setResult_onlyChanges _ _⟩

/-! ### One register written (R162, R164 to R166) -/

/-- Settles O24: the 8-bit sum is written to the register, and no flag. -/
theorem addImmediateWraps : Obligations.AddImmediateWraps := by
  intro s x kk
  obtain ⟨t, hdone, hx, hregs, hframe⟩ := exists_completes_of_exec_eq_writeV (i := .addImm x kk) (s := s) rfl
  exact ⟨t, hdone, by rw [hx, BitVec.toNat_add], hregs, hframe⟩

/-- An instruction that writes one byte, given by its bits, completes with those bits in the register and keeps all else. -/
theorem exists_completes_of_bits {i : Instr} {s : State} {x : Reg} {b : Byte} {f : Nat → Bool}
    (he : exec i s = (s.writeV x b).done) (hb : ∀ k, k < 8 → b.getLsbD k = f k) :
    ∃ t, Completes i s t ∧ (∀ k, k < 8 → (t.readV x).getLsbD k = f k) ∧ RegsKept [x] s t ∧
      OnlyChanges [.v, .result] s t := by
  obtain ⟨t, hdone, hx, hregs, hframe⟩ := exists_completes_of_exec_eq_writeV he
  exact ⟨t, hdone, hx ▸ hb, hregs, hframe⟩

/-- Settles O25: the three operations on bytes act on each bit. -/
theorem logicIsBitwise : Obligations.LogicIsBitwise := fun _ _ _ =>
  ⟨exists_completes_of_bits rfl fun _ _ => BitVec.getLsbD_or, exists_completes_of_bits rfl fun _ _ => BitVec.getLsbD_and,
    exists_completes_of_bits rfl fun _ _ => BitVec.getLsbD_xor⟩

/-! ### A result and its flag (R169 to R171) -/

/-- Settles O28: the two writes are the difference, with Vy the minuend, and its not-borrow. -/
theorem subnSetsNotBorrow : Obligations.SubnSetsNotBorrow := by
  intro s x y
  obtain ⟨t, hdone, hres, hflag, hregs, hframe⟩ := exists_completes_of_exec_eq_writeResultFlag (i := .subn x y) (s := s) rfl
  refine ⟨t, hdone, fun hx => ?_, hflag.trans (notBorrowFlag_eq _ _), hregs, hframe⟩
  rw [hres hx, byte_toNat_sub_int]

theorem flagByte_toNat (b : Bool) : (flagByte b).toNat = b.toNat := by cases b <;> rfl

theorem shiftRightFlag_toNat (b : Byte) : (shiftRightFlag b).toNat = b.toNat % 2 := by
  rw [shiftRightFlag, flagByte_toNat, BitVec.getLsbD, Nat.toNat_testBit, Nat.pow_zero, Nat.div_one]

theorem shiftLeftFlag_toNat (b : Byte) : (shiftLeftFlag b).toNat = b.toNat / 128 := by
  have hlt : b.toNat < 256 := b.isLt
  rw [shiftLeftFlag, flagByte_toNat, BitVec.getLsbD, Nat.toNat_testBit]
  omega

theorem byte_shiftRight_one_toNat (b : Byte) : (b >>> 1).toNat = b.toNat / 2 := by
  rw [BitVec.toNat_ushiftRight, Nat.shiftRight_eq_div_pow, Nat.pow_one]

theorem byte_shiftLeft_one_toNat (b : Byte) : (b <<< 1).toNat = 2 * b.toNat % 256 := by
  rw [BitVec.toNat_shiftLeft, Nat.shiftLeft_eq, Nat.pow_one, Nat.mul_comm]

/-- Settles O29: the two writes are the shifted source and the bit shifted out, for both values of SHIFT_SRC_VY. -/
theorem shiftsByOne : Obligations.ShiftsByOne := by
  intro s x y v hv
  obtain rfl : v = s.shiftSource x y := hv
  constructor
  · obtain ⟨t, hdone, hres, hflag, hregs, hframe⟩ := exists_completes_of_exec_eq_writeResultFlag (i := .shr x y) (s := s) rfl
    exact ⟨t, hdone, fun hx => by rw [hres hx, byte_shiftRight_one_toNat], by rw [hflag, shiftRightFlag_toNat], hregs, hframe⟩
  · obtain ⟨t, hdone, hres, hflag, hregs, hframe⟩ := exists_completes_of_exec_eq_writeResultFlag (i := .shl x y) (s := s) rfl
    exact ⟨t, hdone, fun hx => by rw [hres hx, byte_shiftLeft_one_toNat], by rw [hflag, shiftLeftFlag_toNat], hregs, hframe⟩

/-! ### The key instructions (R210 to R213) -/

theorem State.keyOf_eq (s : State) (x : Reg) : s.keyOf x = s.keys.getLsbD ((s.readV x).toNat % 16) := by
  rw [State.keyOf, BitVec.extractLsb'_toNat, Nat.shiftRight_zero]

/-- Settles O41: both skips are on the level of one key, in opposite senses. -/
theorem keySkipsSampleOneKey : Obligations.KeySkipsSampleOneKey := by
  rintro s x k rfl
  rw [← State.keyOf_eq]
  exact ⟨exists_completes_of_exec_eq_skipIf rfl Iff.rfl, exists_completes_of_exec_eq_skipIf rfl (Bool.not_eq_true' _).to_iff⟩

theorem exec_ldVxK_of_key {s : State} {k : Nat} (x : Reg) (h : leastKey s.keys = some k) :
    exec (.ldVxK x) s = (s.writeV x (BitVec.ofNat 8 k)).done := by
  rw [exec, execLdVxK, h]

theorem exec_ldVxK_of_no_key {s : State} (x : Reg) (h : s.keys = 0) :
    exec (.ldVxK x) s = .next (((s.setWaitKey true).setWaitX x).setResult .ok) := by
  rw [exec, execLdVxK, (leastKey_none_iff _).2 h, State.done_eq]

/-- Settles O42: with a key down it is one register write, with none it enters the wait. -/
theorem keyWaitCompletesOrWaits : Obligations.KeyWaitCompletesOrWaits := by
  refine fun s x => ⟨fun k hk hdown hleast => ?_, fun hzero => ?_⟩
  · obtain ⟨t, hdone, hx, hregs, hframe⟩ :=
      exists_completes_of_exec_eq_writeV (exec_ldVxK_of_key x (leastKey_eq_some hk hdown hleast))
    exact ⟨t, hdone, by rw [hx, ofNat_toNat_of_key hk], hregs, hframe⟩
  · refine ⟨_, ⟨exec_ldVxK_of_no_key x hzero, rfl⟩, rfl, rfl, ?_⟩
    simp [onlyChanges_iff, Part.Same]

/-! ### Data accesses (R67, R68) -/

section
variable {i : Instr} {s e : State} {k : Nat} (he : exec i s = s.withData k e)
include he

theorem completes_of_withData (hk : s.dataAddr k ≤ 0x1000) : Completes i s (e.setResult .ok) := by
  refine ⟨he.trans ?_, rfl⟩
  rw [State.withData_eq, if_pos ((s.dataFits_iff k).2 hk)]

theorem raises_of_withData (hk : 0x1000 < s.dataAddr k) : Raises i s (.dataOob 0x1000) := by
  have hfits : ¬ s.dataFits k = true := fun h => absurd ((s.dataFits_iff k).1 h) (Nat.not_le.2 hk)
  refine he.trans ?_
  rw [State.withData_eq, if_neg hfits]; rfl

end

/-- The bytes of a run at DataAddr(0) and up are read back, and every other byte is as before. -/
def State.StoredRun (s t : State) (bs : List Byte) : Prop :=
  (∀ k, k < bs.length → t.readByte (s.dataAddr k) = bs.getD k 0) ∧
    ∀ a, a < s.dataAddr 0 ∨ s.dataAddr bs.length ≤ a → t.readByte a = s.readByte a

/-- An instruction that stores a run of bytes at DataAddr(0) and up, where they lie inside memory. -/
theorem exists_completes_of_exec_eq_writeBytes {i : Instr} {s : State} {bs : List Byte} (hs : s.Inv)
    (he : exec i s = s.withData bs.length (s.writeBytes (s.dataAddr 0) bs)) (hfit : s.dataAddr bs.length ≤ 0x1000) :
    ∃ t, Completes i s t ∧ s.StoredRun t bs ∧ OnlyChanges [.mem, .result] s t := by
  have hread := State.readByte_writeBytes hs.memWf (a := s.dataAddr 0) (bs := bs) hfit
  refine ⟨_, completes_of_withData he hfit, ⟨fun k hk => ?_, fun a ha => ?_⟩, ?_⟩
  · rw [State.setResult_readByte, hread, s.dataAddr_add k, if_pos (by omega), Nat.add_sub_cancel_left]
  · rw [s.dataAddr_add bs.length] at ha
    rw [State.setResult_readByte, hread, if_neg (by omega)]
  · exact ((s.writeBytes_onlyChanges _ _).mono (by simp)).setResult (by simp) _

theorem decimalDigits_toNat (b : Byte) :
    ((decimalDigits b).getD 0 0).toNat = b.toNat / 100 ∧ ((decimalDigits b).getD 1 0).toNat = b.toNat / 10 % 10 ∧
      ((decimalDigits b).getD 2 0).toNat = b.toNat % 10 := by
  have hlt : b.toNat < 256 := b.isLt
  simp only [decimalDigits, List.getD_cons_zero, List.getD_cons_succ, BitVec.toNat_ofNat]
  omega

/-- Settles O34: a run of three digits. -/
theorem decimalDigitsStored : Obligations.DecimalDigitsStored := by
  refine fun s x hs => ⟨s.dataAddr_eq, fun hfit => ?_, fun hoob => ?_⟩
  · have hfit3 : s.dataAddr 3 ≤ 0x1000 := Nat.succ_le_succ hfit
    obtain ⟨t, hdone, ⟨hin, hout⟩, hframe⟩ :=
      exists_completes_of_exec_eq_writeBytes (i := .ldB x) (bs := decimalDigits (s.readV x)) hs rfl hfit3
    obtain ⟨hhundreds, htens, hones⟩ := decimalDigits_toNat (s.readV x)
    refine ⟨t, hdone, ?_, ?_, ?_, fun a ha => hout a (ha.imp_right Nat.succ_le_of_lt), hframe⟩
    · rw [hin 0 (by simp), hhundreds]
    · rw [hin 1 (by simp), htens]
    · rw [hin 2 (by simp), hones]
  · exact raises_of_withData rfl (Nat.succ_lt_succ hoob)

/-- The block store completes with each register up to Vx at its address, and every other byte as before. -/
theorem exists_completes_stRegs {s : State} {x : Reg} (hs : s.Inv) (hfit : s.dataAddr x.toNat ≤ 0xFFF) :
    ∃ t, Completes (.stRegs x) s t ∧ (∀ r : Reg, r ≤ x → t.readByte (s.dataAddr r.toNat) = s.readV r) ∧
      (∀ a, a < s.dataAddr 0 ∨ s.dataAddr x.toNat < a → t.readByte a = s.readByte a) ∧
      OnlyChanges [.mem, .result] s t := by
  have hlen := s.regBlock_length x
  have hfit' : s.dataAddr (s.regBlock x).length ≤ 0x1000 := by rw [hlen]; exact Nat.succ_le_succ hfit
  have he : exec (.stRegs x) s = s.withData (s.regBlock x).length (s.writeBytes (s.dataAddr 0) (s.regBlock x)) := by
    rw [hlen]; rfl
  obtain ⟨t, hdone, ⟨hin, hout⟩, hframe⟩ := exists_completes_of_exec_eq_writeBytes hs he hfit'
  refine ⟨t, hdone, fun r hr => ?_, fun a ha => hout a ?_, hframe⟩
  · rw [hin r.toNat (by rw [hlen]; exact Nat.lt_succ_of_le hr), s.regBlock_getD x r hr]
  · rw [hlen]; exact ha.imp_right Nat.succ_le_of_lt

/-- Settles O35: a run of the registers up to Vx. -/
theorem blockStoreWritesRegisters : Obligations.BlockStoreWritesRegisters := fun s _ hs =>
  ⟨s.dataAddr_eq, exists_completes_stRegs hs, fun hoob => raises_of_withData rfl (Nat.succ_lt_succ hoob)⟩

/-- The registers up to Vx after a block load hold the bytes at their addresses, the others what they held (R184). -/
theorem State.readV_writeRegs_dataBlock (s : State) (x r : Reg) :
    (s.writeRegs 0 (s.dataBlock x)).readV r = if r ≤ x then s.readByte (s.dataAddr r.toNat) else s.readV r := by
  have hx : x.toNat < 16 := x.isLt
  by_cases hr : r ≤ x
  · have hlt : r.toNat < x.toNat + 1 := Nat.lt_succ_of_le hr
    rw [if_pos hr, State.readV_writeRegs _ _ _ (by rw [State.dataBlock_length]; omega), State.dataBlock_length,
      if_pos (by omega), Nat.sub_zero, State.dataBlock, State.readBytes_getD _ _ _ _ hlt, s.dataAddr_add r.toNat]
  · rw [if_neg hr]
    exact s.writeRegs_dataBlock_regsKept x r fun hmem => hr ((mem_writtenRegs_ldRegs x r).1 hmem)

/-- Settles O36: a run of register writes from the bytes at DataAddr(0) and up. -/
theorem blockLoadReadsRegisters : Obligations.BlockLoadReadsRegisters := fun s x =>
  ⟨s.dataAddr_eq, fun hfit =>
    ⟨_, completes_of_withData rfl (Nat.succ_le_succ hfit), s.readV_writeRegs_dataBlock x,
      ((s.writeRegs_onlyChanges _ _).mono (by simp)).setResult (by simp) _⟩,
    fun hoob => raises_of_withData rfl (Nat.succ_lt_succ hoob)⟩

/-- Settles O37: the store leaves PC alone, so the next fetch reads two bytes of the block (R75). -/
theorem storeSeenByNextFetch : Obligations.StoreSeenByNextFetch := by
  intro s x r hs hfit hr haddr
  have hlt : r.toNat < x.toNat := hr
  have hnext : (r + 1).toNat = r.toNat + 1 := by
    have hx : x.toNat < 16 := x.isLt
    have hone : (1 : Reg).toNat = 1 := rfl
    rw [BitVec.toNat_add, hone]
    omega
  obtain ⟨t, hdone, hin, -, hframe⟩ := exists_completes_stRegs hs hfit
  have hpc : t.pc = s.pc := hframe .pc (by simp)
  have hfetch : t.fetchAddr = s.dataAddr r.toNat := by rw [State.fetchAddr_eq, hpc, ← State.fetchAddr_eq, haddr]
  have hsucc : s.dataAddr r.toNat + 1 = s.dataAddr (r + 1).toNat := by rw [hnext]; rfl
  refine ⟨t, hdone, ?_⟩
  rw [State.nextWord_toNat, hfetch, hsucc, hin r (Nat.le_of_lt hlt), hin (r + 1) (by rw [BitVec.le_def]; omega)]

end Sys2Proof.Machine

/-! PROOFS. Sprites (spec/44_display.md R201, R202). The blitter laws say what a draw does to the display in terms of the sprite's
bytes; read through `spriteAt`, a pixel is XORed with the sprite bit on it, and the collision is a set bit on a set pixel. -/

namespace Sys2Proof.Machine

/-! ### The sprite bit of a pixel, as the blitter reads it (R201) -/

section
variable (s : State) (x y : Reg) (n : Nat)

/-- The bytes of the rows that are drawn. -/
def State.spriteBytes : List Byte := s.readBytes (s.dataAddr 0) (s.spriteRows y n)

@[simp] theorem State.spriteBytes_length : (s.spriteBytes y n).length = s.spriteRows y n := s.readBytes_length _ _

theorem State.drawn_eq :
    s.drawn x y n = Canvas.drawRows (s.spriteX x) (s.spriteY y) (s.spriteBytes y n) ⟨s.disp, false⟩ := rfl

theorem State.spriteAt_eq_spriteBit (px py : Nat) :
    s.spriteAt x y n px py =
      (decide (s.spriteY y ≤ py) && spriteBit (s.spriteBytes y n) (s.spriteX x) px (py - s.spriteY y)) := by
  by_cases hrow : s.spriteY y ≤ py ∧ py - s.spriteY y < s.spriteRows y n
  · obtain ⟨hle, hlt⟩ := hrow
    have hbyte : (s.spriteBytes y n).getD (py - s.spriteY y) 0 = s.readByte (s.dataAddr (py - s.spriteY y)) :=
      s.readBytes_getD _ _ _ hlt _
    have hin : (s.spriteX x ≤ px ∧ px < s.spriteX x + 8 ∧ s.spriteY y ≤ py ∧ py < s.spriteY y + s.spriteRows y n) ↔
        s.spriteX x ≤ px ∧ px - s.spriteX x < 8 ∧ py - s.spriteY y < s.spriteRows y n := by omega
    rw [State.spriteAt, spriteBit, State.spriteBytes_length, hbyte, decide_eq_decide.2 hin, decide_eq_true hle,
      Bool.true_and]
  · have hout : ¬ (s.spriteX x ≤ px ∧ px < s.spriteX x + 8 ∧ s.spriteY y ≤ py ∧ py < s.spriteY y + s.spriteRows y n) := by
      omega
    rw [State.spriteAt, decide_eq_false hout, Bool.false_and, eq_comm, Bool.and_eq_false_imp, decide_eq_true_eq]
    intro hle
    have hlt : ¬ py - s.spriteY y < s.spriteRows y n := fun h => hrow ⟨hle, h⟩
    simp [spriteBit, hlt]

/-- A sprite bit falls on the display only (R202 b). -/
theorem State.lt_of_spriteAt {px py : Nat} (h : s.spriteAt x y n px py = true) : py < 32 := by
  have hfit := s.spriteRows_fit y n
  simp only [State.spriteAt, Bool.and_eq_true, decide_eq_true_eq] at h
  omega

theorem State.spriteBytes_fit : s.spriteY y + (s.spriteBytes y n).length ≤ 32 := by
  rw [State.spriteBytes_length]; exact s.spriteRows_fit y n

/-- Each pixel is XORed with the sprite bit that falls on it. -/
theorem State.pixel_drawn {px py : Nat} (hx : px < 64) :
    Screen.pixel (s.drawn x y n).disp (py * 64 + px) = (s.pixel (py * 64 + px) != s.spriteAt x y n px py) := by
  rw [State.spriteAt_eq_spriteBit, State.drawn_eq]
  exact Canvas.pixel_drawRows (s.spriteBytes_fit y n) _ hx

/-- Some set sprite bit falls on a set pixel. -/
def State.Collides : Prop :=
  ∃ px py, px < 64 ∧ py < 32 ∧ s.spriteAt x y n px py = true ∧ s.pixel (py * 64 + px) = true

theorem State.hit_drawn : (s.drawn x y n).hit = true ↔ s.Collides x y n := by
  rw [State.drawn_eq, Canvas.hit_drawRows (s.spriteBytes_fit y n)]
  constructor
  · rintro (h | ⟨px, py, hx, hle, hbit, hset⟩)
    · cases h
    · have hat : s.spriteAt x y n px py = true := by
        rw [State.spriteAt_eq_spriteBit, decide_eq_true hle]; exact hbit
      exact ⟨px, py, hx, s.lt_of_spriteAt x y n hat, hat, hset⟩
  · rintro ⟨px, py, hx, -, hat, hset⟩
    rw [State.spriteAt_eq_spriteBit, Bool.and_eq_true, decide_eq_true_eq] at hat
    exact .inr ⟨px, py, hx, hat.1, hat.2, hset⟩

end

/-! ### The draw (R201) -/

/-- What a draw that completes leaves. -/
structure Drawn (s t : State) (x y : Reg) (n : Nat) : Prop where
  pixel : ∀ px py, px < 64 → t.pixel (py * 64 + px) = (s.pixel (py * 64 + px) != s.spriteAt x y n px py)
  flag : t.readV 15 = flagByte (s.drawn x y n).hit
  redraw : t.redraw = true
  regs : RegsKept [15] s t
  frame : OnlyChanges [.v, .disp, .redraw, .result] s t

theorem exists_completes_drw {s : State} {x y : Reg} {n : Nat} (hfit : s.dataAddr (s.spriteRows y n) ≤ 0x1000) :
    ∃ t, Completes (.drw x y n) s t ∧ Drawn s t x y n := by
  refine ⟨_, completes_of_withData rfl hfit, fun px py hx => s.pixel_drawn x y n hx, ?_, rfl, ?_, ?_⟩
  · simp [vf_eq]
  · exact (s.setDisp _).writeV_regsKept _ (by simp [vf_eq])
  · exact (s.draw_onlyChanges _ _).setResult (by simp) _

section
variable {s t : State} {x y : Reg} {n : Nat} (h : Drawn s t x y n)
include h

theorem Drawn.flag_of_collides (hc : s.Collides x y n) : t.readV 15 = 1 := by
  rw [h.flag, (s.hit_drawn x y n).2 hc, flagByte_eq, if_pos rfl]

theorem Drawn.flag_of_not_collides (hc : ¬ s.Collides x y n) : t.readV 15 = 0 := by
  rw [h.flag, flagByte_eq, if_neg ((s.hit_drawn x y n).not.2 hc)]

theorem Drawn.flag_iff : t.readV 15 = 1 ↔ s.Collides x y n := by
  refine ⟨fun h1 => by_contra fun hc => ?_, h.flag_of_collides⟩
  rw [h.flag_of_not_collides hc] at h1
  exact absurd h1 (by decide)

end

/-- Settles O39: the effect of the draw is `Drawn`, and the bound is that of a data access. -/
theorem drawXorsClippedSprite : Obligations.DrawXorsClippedSprite := by
  refine fun s x y n => ⟨s.dataAddr_eq, rfl, rfl, rfl, fun hfit => ?_, fun hoob => raises_of_withData rfl hoob⟩
  obtain ⟨t, hdone, h⟩ := exists_completes_drw (x := x) hfit
  refine ⟨t, hdone, fun px py hx _ => h.pixel px py hx, h.flag_of_collides, fun hmiss => h.flag_of_not_collides ?_, h.redraw,
    h.regs, h.frame⟩
  rintro ⟨px, py, hx, hy, hat, hset⟩
  simp [hmiss px py hx hy hat] at hset

/-! ### The same sprite twice (R202 g) -/

/-- A sprite is read from I, two registers and memory. -/
structure SameSprite (s t : State) (x y : Reg) : Prop where
  i : t.i = s.i
  x : t.readV x = s.readV x
  y : t.readV y = s.readV y
  mem : ∀ a, t.readByte a = s.readByte a

section
variable {s t : State} {x y : Reg} (h : SameSprite s t x y)
include h

theorem SameSprite.dataAddr (k : Nat) : t.dataAddr k = s.dataAddr k := by rw [State.dataAddr, h.i]; rfl

theorem SameSprite.spriteX : t.spriteX x = s.spriteX x := by rw [State.spriteX, h.x]; rfl

theorem SameSprite.spriteY : t.spriteY y = s.spriteY y := by rw [State.spriteY, h.y]; rfl

theorem SameSprite.spriteRows (n : Nat) : t.spriteRows y n = s.spriteRows y n := by
  rw [State.spriteRows, h.spriteY]; rfl

theorem SameSprite.spriteAt (n px py : Nat) : t.spriteAt x y n px py = s.spriteAt x y n px py := by
  simp only [State.spriteAt, h.spriteX, h.spriteY, h.spriteRows, h.dataAddr, h.mem]

end

/-- A draw whose operands are not VF leaves the sprite as it was. -/
theorem Drawn.sameSprite {s t : State} {x y : Reg} {n : Nat} (h : Drawn s t x y n) (hx : x ≠ 15) (hy : y ≠ 15) :
    SameSprite s t x y where
  i := h.frame .i (by simp)
  x := h.regs x (by simpa using hx)
  y := h.regs y (by simpa using hy)
  mem := h.frame .mem (by simp)

/-- Settles O40: the two draws XOR the same bits; from a display all off, the second meets what the first has set. -/
theorem drawTwiceRestoresDisplay : Obligations.DrawTwiceRestoresDisplay := by
  intro s x y n hx hy hfit
  obtain ⟨t, hdone, hfirst⟩ := exists_completes_drw (x := x) hfit
  have hsame := hfirst.sameSprite hx hy
  have hfit' : t.dataAddr (t.spriteRows y n) ≤ 0x1000 := by rwa [hsame.spriteRows, hsame.dataAddr]
  obtain ⟨u, hdone', hsecond⟩ := exists_completes_drw (x := x) hfit'
  refine ⟨t, u, hdone, hdone', fun px py hpx _ => ?_, fun hoff => ?_⟩
  · rw [hsecond.pixel px py hpx, hfirst.pixel px py hpx, hsame.spriteAt, Bool.bne_assoc, bne_self_eq_false,
      Bool.bne_false]
  · rw [hsecond.flag_iff, State.Collides]
    refine exists_congr fun px => exists_congr fun py => and_congr_right fun hpx => and_congr_right fun _ => ?_
    rw [hfirst.pixel px py hpx, hoff, hsame.spriteAt, Bool.false_bne, and_self]

end Sys2Proof.Machine

/-! PROOFS. What no Step reads (spec/10_state.md R28, R31, R35). Stack entries at or above SP, REDRAW and the recorded result are
hidden from the instructions: whatever stands there, a Step does the same to all else (`step_alike`), and each of the three pieces
is one case. -/

namespace Sys2Proof.Machine

/-! ### Replacing the hidden pieces -/

/-- The state with other stack entries, another REDRAW and another result. -/
def State.hide (s : State) (l : List Word) (b : Bool) (r : Result) : State := ((s.setStack l).setRedraw b).setResult r

/-- The entries have the size of the stack and are its own below SP. -/
structure State.Covers (s : State) (l : List Word) : Prop where
  size : l.length = s.stack.length
  live : ∀ k, k < s.sp → l.getD k 0 = s.stackEntry k

theorem State.covers_self (s : State) : s.Covers s.stack := ⟨rfl, fun _ _ => rfl⟩

/-- The hidden pieces `l`, `b` beside the state `s` become `l'`, `b'` beside its answer `t`: the live entries are still the
stack's own, what was equal is equal, and a redraw that was due still is. -/
structure Carries (s : State) (l : List Word) (b : Bool) (t : State) (l' : List Word) (b' : Bool) : Prop where
  covers : t.Covers l'
  stack : l = s.stack → l' = t.stack
  redraw : b = s.redraw → b' = t.redraw
  redrawStays : s.redraw = true → t.redraw = true

/-- Two answers that differ in the hidden pieces only, and record the same result. -/
def Alike (s : State) (l : List Word) (b : Bool) (o o' : StepOut) : Prop :=
  ∃ t l' b', o = .next t ∧ o' = .next (t.hide l' b' t.result) ∧ Carries s l b t l' b'

theorem Alike.finishStep {s : State} {l : List Word} {b : Bool} {o o' : StepOut} (h : Alike s l b o o') :
    Alike s l b (finishStep o) (finishStep o') := by
  obtain ⟨t, l', b', rfl, rfl, hcovers, hstack, hredraw, hstays⟩ := h
  exact ⟨t.endStep, l', b', rfl, rfl, ⟨hcovers.size, hcovers.live⟩, hstack, hredraw, hstays⟩

section
variable {s t : State} {l : List Word} {b : Bool} (hl : s.Covers l)
include hl

theorem State.Covers.of_stack_eq (hstack : t.stack = s.stack) (hsp : t.sp ≤ s.sp) : t.Covers l where
  size := by rw [hstack, hl.size]
  live k hk := by rw [hl.live k (by omega), State.stackEntry, State.stackEntry, hstack]

/-- An answer that writes neither the stack nor REDRAW and raises SP no further carries the hidden pieces as they are. -/
theorem State.Covers.carries (hstack : t.stack = s.stack) (hsp : t.sp ≤ s.sp) (hredraw : t.redraw = s.redraw) :
    Carries s l b t l b where
  covers := hl.of_stack_eq hstack hsp
  stack h := by rw [h, hstack]
  redraw h := by rw [h, hredraw]
  redrawStays h := by rw [hredraw, h]

/-- An answer that sets REDRAW sets it on both sides. -/
theorem State.Covers.carries_redraw (hstack : t.stack = s.stack) (hsp : t.sp = s.sp) (hredraw : t.redraw = true) :
    Carries s l b t l true where
  covers := hl.of_stack_eq hstack hsp.le
  stack h := by rw [h, hstack]
  redraw _ := hredraw.symm
  redrawStays _ := hredraw

/-- A push writes the same entry on both sides, at the index that was the first hidden one. -/
theorem State.Covers.set (w : Word) : ((s.setStack (s.stack.set s.sp w)).setSp (s.sp + 1)).Covers (l.set s.sp w) where
  size := by simp [hl.size]
  live k hk := by
    have hk : k < s.sp + 1 := hk
    have hsize := hl.size
    by_cases h : k < s.sp
    · have hlive := hl.live k h
      simp only [State.stackEntry, List.getD_eq_getElem?_getD] at hlive
      simpa [State.stackEntry, Nat.ne_of_gt h] using hlive
    · obtain rfl : k = s.sp := by omega
      simp [State.stackEntry, List.getElem?_set, hsize]

end

/-! ### The shared operations do not read the hidden pieces -/

section
variable (s : State) (l : List Word) (b : Bool) (r : Result)

theorem State.hide_readBytes (a k : Nat) : (s.hide l b r).readBytes a k = s.readBytes a k := by
  induction k generalizing a with
  | zero => rfl
  | succ k ih => exact congrArg (s.readByte a :: ·) (ih (a + 1))

theorem State.hide_writeBytes (a : Nat) (bs : List Byte) :
    (s.hide l b r).writeBytes a bs = (s.writeBytes a bs).hide l b r := by
  induction bs generalizing s a with
  | nil => rfl
  | cons c bs ih => exact ih (s.writeByte a c) (a + 1)

theorem State.hide_writeRegs (k : Nat) (bs : List Byte) :
    (s.hide l b r).writeRegs k bs = (s.writeRegs k bs).hide l b r := by
  induction bs generalizing s k with
  | nil => rfl
  | cons c bs ih => exact ih (s.writeV (BitVec.ofNat 4 k) c) (k + 1)

theorem State.hide_drawn (x y : Reg) (n : Nat) : (s.hide l b r).drawn x y n = s.drawn x y n := by
  rw [State.drawn, State.hide_readBytes]; rfl

end

/-! ### Every instruction answers alike -/

section
variable {s : State} {l : List Word} {b : Bool} (hl : s.Covers l) (r : Result)
include hl

theorem skipIf_alike (c : Bool) : Alike s l b (s.skipIf c) ((s.hide l b r).skipIf c) :=
  ⟨_, l, b, s.skipIf_eq c, (s.hide l b r).skipIf_eq c, hl.carries rfl le_rfl rfl⟩

/-- The bound of a data access reads none of the hidden pieces, so both sides take the same branch. -/
theorem withData_alike {e e' : State} {b' : Bool} (k : Nat) (he : e' = e.hide l b' r)
    (hc : Carries s l b (e.setResult .ok) l b') :
    Alike s l b (s.withData k e) ((s.hide l b r).withData k e') := by
  have hfits : (s.hide l b r).dataFits k = s.dataFits k := rfl
  subst he
  rw [State.withData_eq, State.withData_eq, hfits]
  cases s.dataFits k with
  | true => exact ⟨_, l, b', rfl, rfl, hc⟩
  | false => exact ⟨_, l, b, rfl, rfl, hl.carries rfl le_rfl rfl⟩

theorem execCls_alike : Alike s l b (execCls s) (execCls (s.hide l b r)) :=
  ⟨_, l, true, rfl, rfl, hl.carries_redraw rfl rfl rfl⟩

theorem execDrw_alike (x y : Reg) (n : Nat) : Alike s l b (execDrw x y n s) (execDrw x y n (s.hide l b r)) := by
  rw [execDrw, execDrw, State.hide_drawn]
  exact withData_alike hl r _ rfl (hl.carries_redraw rfl rfl rfl)

/-- A data access that stores a run of bytes stores the same run on both sides. -/
theorem withData_writeBytes_alike (k a : Nat) (bs : List Byte) :
    Alike s l b (s.withData k (s.writeBytes a bs)) ((s.hide l b r).withData k ((s.hide l b r).writeBytes a bs)) := by
  refine withData_alike hl r _ (s.hide_writeBytes l b r _ _) (hl.carries ?_ (le_of_eq ?_) ?_)
  · exact s.writeBytes_stack _ _
  · exact s.writeBytes_sp _ _
  · exact s.writeBytes_redraw _ _

theorem execLdRegs_alike (x : Reg) : Alike s l b (execLdRegs x s) (execLdRegs x (s.hide l b r)) := by
  have hblock : (s.hide l b r).dataBlock x = s.dataBlock x := s.hide_readBytes l b r _ _
  rw [execLdRegs, execLdRegs, hblock]
  refine withData_alike hl r _ (s.hide_writeRegs l b r _ _) (hl.carries ?_ (le_of_eq ?_) ?_)
  · exact s.writeRegs_stack _ _
  · exact s.writeRegs_sp _ _
  · exact s.writeRegs_redraw _ _

theorem execLdVxK_alike (x : Reg) : Alike s l b (execLdVxK x s) (execLdVxK x (s.hide l b r)) := by
  have hkeys : (s.hide l b r).keys = s.keys := rfl
  rw [execLdVxK, execLdVxK, hkeys]
  cases leastKey s.keys with
  | some k => exact ⟨_, l, b, rfl, rfl, hl.carries rfl le_rfl rfl⟩
  | none => exact ⟨_, l, b, rfl, rfl, hl.carries rfl le_rfl rfl⟩

theorem waitStep_alike : Alike s l b s.waitStep (s.hide l b r).waitStep := by
  have hkeys : (s.hide l b r).keys = s.keys := rfl
  rw [State.waitStep, State.waitStep, hkeys]
  cases leastKey s.keys with
  | some k => exact ⟨_, l, b, rfl, rfl, hl.carries rfl le_rfl rfl⟩
  | none => exact ⟨_, l, b, rfl, rfl, hl.carries rfl le_rfl rfl⟩

theorem execCall_alike (nnn : Addr) : Alike s l b (execCall nnn s) (execCall nnn (s.hide l b r)) := by
  obtain ⟨hroom, e⟩ | ⟨hfull, e⟩ := execCall_cases nnn s
  · have hset := hl.set s.pc
    refine ⟨_, l.set s.sp s.pc, b, e, exec_call_of_room (s := s.hide l b r) nnn hroom, ⟨hset.size, hset.live⟩, ?_, fun h => h,
      fun h => h⟩
    rintro rfl
    rfl
  · exact ⟨_, l, b, e, raises_call_of_full (s := s.hide l b r) nnn hfull, hl.carries rfl le_rfl rfl⟩

/-- A return pops a live entry. -/
theorem execRet_alike : Alike s l b (execRet s) (execRet (s.hide l b r)) := by
  obtain ⟨hpos, e⟩ | ⟨hzero, e⟩ := execRet_cases s
  · obtain ⟨-, e'⟩ | ⟨hzero, -⟩ := execRet_cases (s.hide l b r)
    · have hentry : (s.hide l b r).stackEntry ((s.hide l b r).sp - 1) = s.stackEntry (s.sp - 1) :=
        hl.live (s.sp - 1) (by omega)
      rw [hentry] at e'
      exact ⟨_, l, b, e, e', hl.carries rfl (Nat.sub_le _ _) rfl⟩
    · exact absurd hzero (Nat.ne_of_gt hpos)
  · obtain ⟨hpos, -⟩ | ⟨-, e'⟩ := execRet_cases (s.hide l b r)
    · exact absurd hzero (Nat.ne_of_gt hpos)
    · exact ⟨_, l, b, e, e', hl.carries rfl le_rfl rfl⟩

theorem exec_alike (i : Instr) : Alike s l b (exec i s) (exec i (s.hide l b r)) := by
  cases i with
  | cls => exact execCls_alike hl r
  | ret => exact execRet_alike hl r
  | call nnn => exact execCall_alike hl r nnn
  | drw x y n => exact execDrw_alike hl r x y n
  | ldB | stRegs => exact withData_writeBytes_alike hl r _ _ _
  | ldRegs x => exact execLdRegs_alike hl r x
  | ldVxK x => exact execLdVxK_alike hl r x
  | seImm | sneImm | seReg | sneReg | skp | sknp => exact skipIf_alike hl r _
  | _ => exact ⟨_, l, b, rfl, rfl, hl.carries rfl le_rfl rfl⟩

/-! ### Every Step answers alike -/

theorem dispatch_alike (w : Word) : Alike s l b (s.dispatch w) ((s.hide l b r).dispatch w) := by
  cases hd : decode w with
  | ok i =>
    rw [State.dispatch_of_ok hd, State.dispatch_of_ok hd]
    exact exec_alike hl r i
  | error e =>
    rw [State.dispatch_of_error hd, State.dispatch_of_error hd]
    exact ⟨_, l, b, rfl, rfl, hl.carries rfl le_rfl rfl⟩

theorem step_alike : Alike s l b (step s) (step (s.hide l b r)) := by
  obtain ⟨hw, e⟩ | ⟨hw, hf, e⟩ | ⟨hw, hf, e⟩ := step_cases s
  · rw [e, step_of_wait (s := s.hide l b r) hw]
    exact (waitStep_alike hl r).finishStep
  · rw [e, step_of_fetch_oob (s := s.hide l b r) hw hf]
    exact ⟨_, l, b, rfl, rfl, hl.carries rfl le_rfl rfl⟩
  · rw [e, step_of_fetch (s := s.hide l b r) hw hf]
    have hpost : (s.setPc (s.pc + 2)).Covers l := ⟨hl.size, hl.live⟩
    obtain ⟨t, l', b', ht, ht', hcovers, hstack, hredraw, hstays⟩ := dispatch_alike (b := b) hpost r s.nextWord
    exact Alike.finishStep ⟨t, l', b', ht, ht', hcovers, hstack, hredraw, hstays⟩

end

/-! ### The three pieces -/

/-- Settles O55: with the other hidden pieces equal, the two Steps answer the same state. -/
theorem resultIsNotLatched : Obligations.ResultIsNotLatched := by
  intro s r
  obtain ⟨t, l', b', e, e', -, hstack, hredraw, -⟩ := step_alike (b := s.redraw) s.covers_self r
  obtain rfl := hstack rfl
  obtain rfl := hredraw rfl
  exact e'.trans e.symm

/-- Settles O56: with the stack equal, the two answers differ in REDRAW at most. -/
theorem redrawIsNeverRead : Obligations.RedrawIsNeverRead := by
  intro s b
  obtain ⟨t, l', b', e, e', -, hstack, -, hstays⟩ := step_alike (b := b) s.covers_self s.result
  obtain rfl := hstack rfl
  exact ⟨t, _, e, e', rfl, hstays⟩

/-- Settles O57: with REDRAW equal, the two answers differ in entries at or above SP at most. -/
theorem vacatedStackEntriesAreNeverRead : Obligations.VacatedStackEntriesAreNeverRead := by
  intro s l hsize hlive _
  obtain ⟨t, l', b', e, e', hcovers, -, hredraw, -⟩ := step_alike (b := s.redraw) ⟨hsize, hlive⟩ s.result
  obtain rfl := hredraw rfl
  exact ⟨t, _, e, e', rfl, hcovers.live⟩

end Sys2Proof.Machine

/-! PROOFS. The parity of PC (spec/20_memory.md R65): the fetch and the skips move PC by an even amount, and only a transfer of
control sets it to anything else. -/

namespace Sys2Proof.Machine

/-- Where the instruction is a transfer of control that completes, its target is even. -/
def State.TransfersEven (s : State) : Instr → Prop
  | .ret => 0 < s.sp → (s.stackEntry (s.sp - 1)).toNat % 2 = 0
  | .jp nnn => nnn.toNat % 2 = 0
  | .call nnn => s.sp < s.cfg.stackDepth → nnn.toNat % 2 = 0
  | .jpV0 nnn => (nnn.toNat + (s.readV 0).toNat) % 2 = 0
  | _ => True

/-- Two more or less, modulo 65536, is the same parity. -/
theorem add_two_even {w : Word} (h : w.toNat % 2 = 0) : (w + 2).toNat % 2 = 0 := by
  have htwo : (2 : Word).toNat = 2 := rfl
  rw [BitVec.toNat_add, htwo]
  omega

theorem skipIf_pc_even {s t : State} {c : Bool} (e : s.skipIf c = .next t) (hpc : s.pc.toNat % 2 = 0) :
    t.pc.toNat % 2 = 0 := by
  cases (s.skipIf_eq c).symm.trans e
  cases c with
  | true => exact add_two_even hpc
  | false => exact hpc

theorem exec_pc_even {i : Instr} {s t : State} (e : exec i s = .next t) (hpc : s.pc.toNat % 2 = 0)
    (hto : s.TransfersEven i) : t.pc.toNat % 2 = 0 := by
  cases i with
  | ret =>
    obtain ⟨hpos, e'⟩ | ⟨-, e'⟩ := execRet_cases s
    · cases e'.symm.trans e
      exact hto hpos
    · cases e'.symm.trans e
      exact hpc
  | call nnn =>
    obtain ⟨hroom, e'⟩ | ⟨-, e'⟩ := execCall_cases nnn s
    · cases e'.symm.trans e
      exact (congrArg (· % 2) (addrZext_toNat nnn)).trans (hto hroom)
    · cases e'.symm.trans e
      exact hpc
  | jp nnn =>
    cases e
    exact (congrArg (· % 2) (addrZext_toNat nnn)).trans hto
  | jpV0 nnn =>
    obtain ⟨u, ⟨e', -⟩, htarget, -⟩ := jumpWithOffset s nnn
    cases e'.symm.trans e
    rw [htarget]
    exact hto
  | seImm | sneImm | seReg | sneReg | skp | sknp => exact skipIf_pc_even e hpc
  | _ =>
    have hkept : t.pc = s.pc := exec_keeps_part (p := .pc) e (by simp [writtenParts])
    rw [hkept]
    exact hpc

theorem dispatch_pc_even {s t : State} {w : Word} (e : s.dispatch w = .next t) (hpc : s.pc.toNat % 2 = 0)
    (hto : ∀ i, decode w = .ok i → s.TransfersEven i) : t.pc.toNat % 2 = 0 := by
  cases hd : decode w with
  | ok i =>
    rw [State.dispatch_of_ok hd] at e
    exact exec_pc_even e hpc (hto i hd)
  | error err =>
    cases (State.dispatch_of_error hd s).symm.trans e
    exact hpc

theorem waitStep_pc {s t : State} (e : s.waitStep = .next t) : t.pc = s.pc := by
  obtain ⟨k, -, e'⟩ | ⟨-, e'⟩ := s.waitStep_cases
  · cases e'.symm.trans e; rfl
  · cases e'.symm.trans e; rfl

theorem step_pc_even {s t : State} (e : step s = .next t) (hpc : s.pc.toNat % 2 = 0)
    (hto : s.waitKey = false → ∀ i, decode s.nextWord = .ok i → s.TransfersEven i) : t.pc.toNat % 2 = 0 := by
  obtain ⟨-, e'⟩ | ⟨-, -, e'⟩ | ⟨hw, -, e'⟩ := step_cases s
  · obtain ⟨u, hu, rfl⟩ := exists_of_finishStep_eq_next (e'.symm.trans e)
    have hkept : u.pc = s.pc := waitStep_pc hu
    exact hkept ▸ hpc
  · cases e'.symm.trans e
    exact hpc
  · obtain ⟨u, hu, rfl⟩ := exists_of_finishStep_eq_next (e'.symm.trans e)
    refine dispatch_pc_even (t := u) hu (add_two_even hpc) fun i hd => ?_
    have hs := hto hw i hd
    cases i <;> exact hs

/-- Settles O58: the four exclusions of the statement are the four forms of a transfer. -/
theorem evenPcKeptWithoutOddTransfer : Obligations.EvenPcKeptWithoutOddTransfer := by
  intro s t e hpc hret hjp hcall hjpV0
  refine step_pc_even e hpc fun hw i hd => ?_
  cases i with
  | ret => exact hret hw hd
  | jp nnn => exact hjp nnn hw hd
  | call nnn => exact hcall nnn hw hd
  | jpV0 nnn => exact hjpV0 nnn hw hd
  | _ => trivial

end Sys2Proof.Machine

/-! PROOFS. Nested calls and as many returns (spec/41_control_flow.md R140, R142). By induction on the calls: the returns of the
inner ones leave the entry that the first call pushed on top, and the last return pops it into PC. -/

namespace Sys2Proof.Machine

theorem execAll_append {is js : List Instr} {s t : State} (h : execAll is s = .next t) :
    execAll (is ++ js) s = execAll js t := by
  induction is generalizing s with
  | nil => cases h; rfl
  | cons i is ih =>
    obtain ⟨u, e⟩ := exec_next i s
    rw [execAll, e] at h
    rw [List.cons_append, execAll, e]
    exact ih h

theorem execAll_cons {i : Instr} {is : List Instr} {s t : State} (e : exec i s = .next t) :
    execAll (i :: is) s = execAll is t := by
  rw [execAll, e]

/-- The state after a call with room on the stack. -/
def State.called (s : State) (nnn : Addr) : State :=
  (((s.setStack (s.stack.set s.sp s.pc)).setSp (s.sp + 1)).setPc (Addr.zext nnn)).setResult .ok

theorem State.called_stackEntry {s : State} (h : s.sp < s.stack.length) (nnn : Addr) (k : Nat) :
    (s.called nnn).stackEntry k = if k = s.sp then s.pc else s.stackEntry k :=
  s.stackEntry_setStack_set s.sp k s.pc h

/-- The state after a return with an entry on the stack. -/
def State.returned (s : State) : State := ((s.setSp (s.sp - 1)).setPc (s.stackEntry (s.sp - 1))).setResult .ok

theorem exec_ret_of_sp_pos {s : State} (h : 0 < s.sp) : exec .ret s = .next s.returned := by
  obtain ⟨-, e⟩ | ⟨hzero, -⟩ := execRet_cases s
  · exact e
  · omega

theorem execAll_ret_succ {n : Nat} {q r : State} (hr : execAll (List.replicate n .ret) q = .next r) (h : 0 < r.sp) :
    execAll (List.replicate (n + 1) .ret) q = .next r.returned := by
  rw [List.replicate_succ', execAll_append hr, execAll_cons (exec_ret_of_sp_pos h), execAll]

/-- Room for `n` calls, on a stack of STACK_DEPTH entries. -/
def State.HasRoom (s : State) (n : Nat) : Prop := s.stack.length = s.cfg.stackDepth ∧ s.sp + n ≤ s.cfg.stackDepth

theorem State.HasRoom.called {s : State} {n : Nat} (h : s.HasRoom (n + 1)) (nnn : Addr) : (s.called nnn).HasRoom n := by
  obtain ⟨hlen, hroom⟩ := h
  refine ⟨by simpa [State.called] using hlen, ?_⟩
  change s.sp + 1 + n ≤ s.cfg.stackDepth
  omega

theorem execAll_call_of_room (targets : List Addr) (n : Nat) {s : State} (h : s.HasRoom (targets.length + n)) :
    ∃ p, execAll (targets.map Instr.call) s = .next p ∧ p.sp = s.sp + targets.length ∧ p.HasRoom n := by
  induction targets generalizing s with
  | nil => exact ⟨s, rfl, rfl, by simpa using h⟩
  | cons a as ih =>
    have h' : s.HasRoom ((as.length + n) + 1) := by
      rwa [List.length_cons, Nat.add_right_comm] at h
    have ⟨_, hfit⟩ := h'
    have e : exec (.call a) s = .next (s.called a) := exec_call_of_room a (by omega)
    obtain ⟨p, hp, hsp, hroom⟩ := ih (h'.called a)
    refine ⟨p, (execAll_cons e).trans hp, ?_, hroom⟩
    rw [hsp, List.length_cons]
    change s.sp + 1 + as.length = _
    omega

/-- As many returns as calls bring back PC and SP, and leave the entries below SP. -/
theorem execAll_call_ret (targets : List Addr) {p : State} (h : p.HasRoom targets.length) :
    ∃ q r, execAll (targets.map Instr.call) p = .next q ∧
      execAll (List.replicate targets.length Instr.ret) q = .next r ∧ r.pc = p.pc ∧ r.sp = p.sp ∧
      ∀ k, k < p.sp → r.stackEntry k = p.stackEntry k := by
  induction targets generalizing p with
  | nil => exact ⟨p, p, rfl, rfl, rfl, rfl, fun _ _ => rfl⟩
  | cons a as ih =>
    have ⟨hlen, hroom⟩ := h
    rw [List.length_cons] at hroom
    have e : exec (.call a) p = .next (p.called a) := exec_call_of_room a (by omega)
    have hentry := State.called_stackEntry (s := p) (by omega) a
    obtain ⟨q, r, hq, hr, -, hsp, hkept⟩ := ih (h.called a)
    replace hsp : r.sp = p.sp + 1 := hsp
    replace hkept : ∀ k, k < p.sp + 1 → r.stackEntry k = if k = p.sp then p.pc else p.stackEntry k :=
      fun k hk => (hkept k hk).trans (hentry k)
    have hpred : r.sp - 1 = p.sp := by omega
    refine ⟨q, r.returned, (execAll_cons e).trans hq, execAll_ret_succ hr (by omega), ?_, hpred, fun k hk => ?_⟩
    · change r.stackEntry (r.sp - 1) = p.pc
      rw [hpred, hkept p.sp (by omega), if_pos rfl]
    · change r.stackEntry k = p.stackEntry k
      rw [hkept k (by omega), if_neg (Nat.ne_of_lt hk)]

/-- Settles O19: after the outer calls there is still room for the inner ones, which their returns undo. -/
theorem nestedCallsReturnInReverse : Obligations.NestedCallsReturnInReverse := by
  intro s outer inner hs hroom
  have hroom' : s.HasRoom (outer.length + inner.length) := ⟨hs.stackSize, by omega⟩
  obtain ⟨p, hp, hsp, hinner⟩ := execAll_call_of_room outer inner.length hroom'
  obtain ⟨q, r, hq, hr, hrpc, hrsp, -⟩ := execAll_call_ret inner hinner
  exact ⟨p, q, r, hp, hq, by rwa [List.map_const'], hrpc, hrsp, hsp⟩

end Sys2Proof.Machine
